-- ==== Sys2Proof/Word.lean ====
section
/-! DEFINITION. The word types of the W640: bytes of a frame, 16-bit parameter and data words, 32-bit
record words and time stamps (spec 00 Table 0-3, R134, R171). -/

namespace Sys2Proof

/-- A byte of a link frame (R171). -/
abbrev Byte := BitVec 8

/-- A parameter or data word of a frame, and a half of a record word (R129, R171). -/
abbrev Half := BitVec 16

/-- The data of one word of Record Memory (R152). -/
abbrev Word := BitVec 32

/-- A 32-bit time that wraps: ms since the last restart, or µs of the 1 MHz timebase (Table 0-3). -/
abbrev Stamp := BitVec 32

end Sys2Proof
end

