-- ==== Sys2Proof/Config.lean ====
section
/-! DEFINITION. The values the manual leaves open. Each is a constant with no body: nothing in Lean can
evaluate it, so a claim holds whatever it is. -/

namespace Sys2Proof.Config

/-- Free value: which of several hand-offs, sent to one owner by one event, is taken next, where the
manual gives them no order and the outcome can differ (R81, R100, R178; log 5). The argument is a fresh
number for each choice. -/
opaque freeChoice : Nat → Nat

/-- Free value: data of a Record Memory word after the retention supply was lost (R152; log 8). The
arguments are the number of the loss and the word's address. -/
opaque lostData : Nat → Nat → Word

/-- Free value: check bits of a Record Memory word after the retention supply was lost (R152; log 8). -/
opaque lostCheck : Nat → Nat → BitVec 7

/-- Free value: the speed formed over a time span of 0 µs, for which R91 says that it cannot arise and
gives no figure (log 19). The argument is the distance that would have been divided. -/
opaque zeroSpanSpeed : Nat → Nat

/-- Free value: the deceleration formed over a time span of 0 µs, for which R94 gives no figure (log 19).
The argument is the difference of speeds that would have been divided. -/
opaque zeroSpanDecel : Int → Int

/-- Free value: the 16-bit half that shows an axle speed above 65535, which R92 keeps for display in a noise
FAULT and no half can hold (log 33). -/
opaque wideSpeed : Nat → Half

/-- Free value: data word 12 of a READ_INC_HEADER response whose stored counts make the sum of R147 too
large for a 16-bit word (log 16). -/
opaque wideCounts : Nat → Nat → Half

end Sys2Proof.Config
end

