-- ==== Sys2Proof/Syntax.lean ====
section
/-! DEFINITION. The commands of the W640: one constructor of `Instr` for each row of
spec/opcode_table.json, with the operands the row's rule gives it, and the numbered things they name
(spec 00 section 4.2). -/

namespace Sys2Proof

/-- The three links and their masters (spec 00 section 1). -/
inductive LinkId where
  | p | a | m
  deriving DecidableEq, Repr

/-- The six axles (spec 00 section 4.2). -/
inductive Axle where
  | a1 | a2 | a3 | a4 | a5 | a6
  deriving DecidableEq, Repr

/-- The two trucks (spec 00 section 4.2). -/
inductive Truck where
  | t1 | t2
  deriving DecidableEq, Repr

/-- The nineteen posted items (Table 1-1). -/
inductive Item where
  | db | auto
  | ind (t : Truck)
  | av (k : Axle)
  | ae (k : Axle)
  | ap (t : Truck)
  | gs
  deriving DecidableEq, Repr

/-- The sixteen cause kinds of an incident trigger (Table 7-3). -/
inductive Cause where
  | slideOnset | axleLockout | dumpTimeout | linkLossP | linkLossA | linkLossM | emergency | penalty
  | excInputClamped | excInputStale | excInputFault | excTachFault | excShortfall | excAirDeviation
  | manualMark | restart
  deriving DecidableEq, Repr

/-- The thirteen 16-bit words of a frame: parameter words of a request, data words of a response
(Table 10-1). A word left out is 0 (R171). -/
structure Words where
  w1 : Half := 0
  w2 : Half := 0
  w3 : Half := 0
  w4 : Half := 0
  w5 : Half := 0
  w6 : Half := 0
  w7 : Half := 0
  w8 : Half := 0
  w9 : Half := 0
  w10 : Half := 0
  w11 : Half := 0
  w12 : Half := 0
  w13 : Half := 0
  deriving DecidableEq, Repr

/-- What a passing request frame carries beside its kind (Table 10-1): the link it arrives on, the tag,
the selector byte, byte 3 (fault markers of a posting, field code of WRITE_RES) and the parameter words. -/
structure Req where
  link : LinkId
  tag : Byte := 0
  selector : Byte := 0
  field : Byte := 0
  words : Words := {}
  deriving DecidableEq, Repr

/-- The commands. A request constructor is the arrival of a passing frame of that kind (R172, R179); the
others are the events of the table. -/
inductive Instr where
  | nop (r : Req)
  | postDb (r : Req)
  | postAvail (r : Req)
  | postAchieved (r : Req)
  | postGround (r : Req)
  | postAuto (r : Req)
  | postInd (r : Req)
  | postPressure (r : Req)
  | penaltySet (r : Req)
  | penaltyClear (r : Req)
  | penaltyReset (r : Req)
  | emerSet (r : Req)
  | emerClear (r : Req)
  | modeReq (r : Req)
  | writeRes (r : Req)
  | readRes (r : Req)
  | readAlloc (r : Req)
  | readStatus (r : Req)
  | readAxle (r : Req)
  | readParam (r : Req)
  | writeParam (r : Req)
  | setMask (r : Req)
  | clearExc (r : Req)
  | setTriggers (r : Req)
  | mark (r : Req)
  | freezeRelease (r : Req)
  | clearLockout (r : Req)
  | readIncStatus (r : Req)
  | readIncHeader (r : Req)
  | readIncSnap (r : Req)
  | setCounter (r : Req)
  | clearCounter (r : Req)
  | readCounter (r : Req)
  | diagSelect (r : Req)
  | diagRead (r : Req)
  | diagWrite (r : Req)
  | restart (r : Req)
  /-- A passing frame whose kind byte is unknown or not admitted from its link. -/
  | unknownRequestKind (kind : Byte) (r : Req)
  | frameCheckFailure (l : LinkId)
  | transferAbort (l : LinkId)
  | linkTimeoutExpiry (l : LinkId)
  | freshExpiry (i : Item)
  | holdExpiry (i : Item)
  | goodHoldExpiry (i : Item)
  | blendPeriodExpiry
  | shortfallTimerExpiry
  | airDeviationTimerExpiry (t : Truck)
  /-- The third sample of a qualification; `high` is the level sampled. -/
  | tachQualification (k : Axle) (high : Bool)
  | windowExpiry (k : Axle)
  | zeroTimerExpiry (k : Axle)
  | openTachTimerExpiry (k : Axle)
  | standstillTimerExpiry
  | dumpTimerExpiry (t : Truck)
  | sampleTimerExpiry
  /-- A trigger arrives at the recorder, with its cause kind and detail code (Table 7-3). -/
  | incidentTrigger (c : Cause) (detail : Byte)
  | porstNAssert
  | powerOn
  /-- `wrst`: WRST_N is found asserted at the completion (R184). -/
  | powerOnScanComplete (wrst : Bool)
  | wrstNAssert
  | warmRestartComplete
  | transferStart (l : LinkId)
  /-- A sample of a tachometer input; `high` is the level sampled. -/
  | tachSample (k : Axle) (high : Bool)
  | powerLoss
  | retentionSupplyLoss
  deriving DecidableEq, Repr

end Sys2Proof
end

