-- ==== Sys2Proof/Machine/State.lean ====
section
/-! DEFINITION. The state of the W640 as plain data, every piece the manual names (INVENTORY.md lists them
with their rules), the reasons a step can stop, and the state after reset. -/

namespace Sys2Proof.Machine

variable {α : Type}

/-- The incident slots 0 to 7 (spec 00 section 4.2). -/
inductive Slot where
  | s0 | s1 | s2 | s3 | s4 | s5 | s6 | s7
  deriving DecidableEq, Repr

/-- The event counters 0 to 3 (spec 00 section 4.2). -/
inductive CounterNo where
  | c0 | c1 | c2 | c3
  deriving DecidableEq, Repr

/-- The exception kinds INPUT_CLAMPED, INPUT_STALE, INPUT_FAULT, TACH_FAULT, SHORTFALL, AIR_DEVIATION
(Table 1-6). -/
inductive ExcKind where
  | clamped | stale | fault | tach | shortfall | deviation
  deriving DecidableEq, Repr

/-- One value for each link. -/
structure PerLink (α : Type) where
  p : α
  a : α
  m : α
  deriving DecidableEq, Repr

/-- The entry of `v` at `i`. -/
def PerLink.get (v : PerLink α) (i : LinkId) : α :=
  match i with
  | .p => v.p
  | .a => v.a
  | .m => v.m

/-- `v` with the entry at `i` replaced. -/
def PerLink.set (v : PerLink α) (i : LinkId) (x : α) : PerLink α :=
  match i with
  | .p => { v with p := x }
  | .a => { v with a := x }
  | .m => { v with m := x }

/-- The container whose entry at `i` is `f i`. -/
def PerLink.ofFn (f : LinkId → α) : PerLink α :=
  ⟨f .p, f .a, f .m⟩

/-- One value for each truck. -/
structure PerTruck (α : Type) where
  t1 : α
  t2 : α
  deriving DecidableEq, Repr

/-- The entry of `v` at `i`. -/
def PerTruck.get (v : PerTruck α) (i : Truck) : α :=
  match i with
  | .t1 => v.t1
  | .t2 => v.t2

/-- `v` with the entry at `i` replaced. -/
def PerTruck.set (v : PerTruck α) (i : Truck) (x : α) : PerTruck α :=
  match i with
  | .t1 => { v with t1 := x }
  | .t2 => { v with t2 := x }

/-- The container whose entry at `i` is `f i`. -/
def PerTruck.ofFn (f : Truck → α) : PerTruck α :=
  ⟨f .t1, f .t2⟩

/-- One value for each axle. -/
structure PerAxle (α : Type) where
  a1 : α
  a2 : α
  a3 : α
  a4 : α
  a5 : α
  a6 : α
  deriving DecidableEq, Repr

/-- The entry of `v` at `i`. -/
def PerAxle.get (v : PerAxle α) (i : Axle) : α :=
  match i with
  | .a1 => v.a1
  | .a2 => v.a2
  | .a3 => v.a3
  | .a4 => v.a4
  | .a5 => v.a5
  | .a6 => v.a6

/-- `v` with the entry at `i` replaced. -/
def PerAxle.set (v : PerAxle α) (i : Axle) (x : α) : PerAxle α :=
  match i with
  | .a1 => { v with a1 := x }
  | .a2 => { v with a2 := x }
  | .a3 => { v with a3 := x }
  | .a4 => { v with a4 := x }
  | .a5 => { v with a5 := x }
  | .a6 => { v with a6 := x }

/-- The container whose entry at `i` is `f i`. -/
def PerAxle.ofFn (f : Axle → α) : PerAxle α :=
  ⟨f .a1, f .a2, f .a3, f .a4, f .a5, f .a6⟩

/-- One value for each incident slot. -/
structure PerSlot (α : Type) where
  s0 : α
  s1 : α
  s2 : α
  s3 : α
  s4 : α
  s5 : α
  s6 : α
  s7 : α
  deriving DecidableEq, Repr

/-- The entry of `v` at `i`. -/
def PerSlot.get (v : PerSlot α) (i : Slot) : α :=
  match i with
  | .s0 => v.s0
  | .s1 => v.s1
  | .s2 => v.s2
  | .s3 => v.s3
  | .s4 => v.s4
  | .s5 => v.s5
  | .s6 => v.s6
  | .s7 => v.s7

/-- `v` with the entry at `i` replaced. -/
def PerSlot.set (v : PerSlot α) (i : Slot) (x : α) : PerSlot α :=
  match i with
  | .s0 => { v with s0 := x }
  | .s1 => { v with s1 := x }
  | .s2 => { v with s2 := x }
  | .s3 => { v with s3 := x }
  | .s4 => { v with s4 := x }
  | .s5 => { v with s5 := x }
  | .s6 => { v with s6 := x }
  | .s7 => { v with s7 := x }

/-- The container whose entry at `i` is `f i`. -/
def PerSlot.ofFn (f : Slot → α) : PerSlot α :=
  ⟨f .s0, f .s1, f .s2, f .s3, f .s4, f .s5, f .s6, f .s7⟩

/-- One value for each event counter. -/
structure PerCounter (α : Type) where
  c0 : α
  c1 : α
  c2 : α
  c3 : α
  deriving DecidableEq, Repr

/-- The entry of `v` at `i`. -/
def PerCounter.get (v : PerCounter α) (i : CounterNo) : α :=
  match i with
  | .c0 => v.c0
  | .c1 => v.c1
  | .c2 => v.c2
  | .c3 => v.c3

/-- `v` with the entry at `i` replaced. -/
def PerCounter.set (v : PerCounter α) (i : CounterNo) (x : α) : PerCounter α :=
  match i with
  | .c0 => { v with c0 := x }
  | .c1 => { v with c1 := x }
  | .c2 => { v with c2 := x }
  | .c3 => { v with c3 := x }

/-- The container whose entry at `i` is `f i`. -/
def PerCounter.ofFn (f : CounterNo → α) : PerCounter α :=
  ⟨f .c0, f .c1, f .c2, f .c3⟩

/-- One value for each exception kind. -/
structure PerKind (α : Type) where
  clamped : α
  stale : α
  fault : α
  tach : α
  shortfall : α
  deviation : α
  deriving DecidableEq, Repr

/-- The entry of `v` at `i`. -/
def PerKind.get (v : PerKind α) (i : ExcKind) : α :=
  match i with
  | .clamped => v.clamped
  | .stale => v.stale
  | .fault => v.fault
  | .tach => v.tach
  | .shortfall => v.shortfall
  | .deviation => v.deviation

/-- `v` with the entry at `i` replaced. -/
def PerKind.set (v : PerKind α) (i : ExcKind) (x : α) : PerKind α :=
  match i with
  | .clamped => { v with clamped := x }
  | .stale => { v with stale := x }
  | .fault => { v with fault := x }
  | .tach => { v with tach := x }
  | .shortfall => { v with shortfall := x }
  | .deviation => { v with deviation := x }

/-- The container whose entry at `i` is `f i`. -/
def PerKind.ofFn (f : ExcKind → α) : PerKind α :=
  ⟨f .clamped, f .stale, f .fault, f .tach, f .shortfall, f .deviation⟩

/-- A subset of the links P, A, M (spec 00 section 4.3, R39). -/
structure LinkSet where
  p : Bool := false
  a : Bool := false
  m : Bool := false
  deriving DecidableEq, Repr

/-- The time counters: ms since the last power-on or warm restart, µs of the 1 MHz timebase, and the µs
counted since `ms` last rose (Table 0-3, R184, R185). -/
structure Clock where
  ms : Stamp
  us : Stamp
  sub : Nat
  deriving DecidableEq, Repr

/-- What the part as a whole is doing: without VDD (R153), held by PORST_N (R185), scanning Record Memory
(R157), in service, or in a warm restart (R184). -/
inductive Phase where
  | unpowered | held | scanning | running | restarting
  deriving DecidableEq, Repr

/-- A running timer: when it was started, in ms, and its full run. A stopped timer is `none`. -/
structure Timer where
  start : Stamp
  run : Nat
  deriving DecidableEq, Repr

/-- Link states (Table 10-3). -/
inductive LinkState where
  | down | joining | up
  deriving DecidableEq, Repr

/-- Response status codes (Table 10-2). -/
inductive Status where
  | ok | none | checkFailed | aborted | refusedKind | refusedRange | refusedState | refusedMember
  | damagedData
  deriving DecidableEq, Repr

/-- A response frame but for the bytes formed when it is shifted out (R173). -/
structure Response where
  kind : Byte
  tag : Byte
  status : Status
  data : Words
  deriving DecidableEq, Repr

/-- A transfer on a link: none in progress, in progress with its 32nd byte still to come, or ignored as a
whole because it began in a restart or scan or was abandoned (R169, R170, R184). -/
inductive Transfer where
  | idle | active | ignored
  deriving DecidableEq, Repr

/-- One Link Interface (Table 10-3). `shiftOut` is the frame DOUT is shifting; `none`: all ones (R169). -/
structure LinkPort where
  state : LinkState
  join : Nat
  fail : Nat
  timeout : Option Timer
  response : Response
  transfer : Transfer
  shiftOut : Option (List Byte)
  deriving DecidableEq, Repr

/-- Classes of posted values and axle speeds (Table 1-2). -/
inductive Cls where
  | valid | clamped | stale | fault | absent
  deriving DecidableEq, Repr

/-- The good value of an item with its good time (R2). -/
structure GoodValue where
  value : Nat
  time : Stamp
  deriving DecidableEq, Repr

/-- What the Posted Value Table holds per item (R2). -/
structure PostedItem where
  cls : Cls
  last : Option Nat
  postTime : Stamp
  good : Option GoodValue
  fresh : Option Timer
  hold : Option Timer
  goodHold : Option Timer
  deriving DecidableEq, Repr

/-- The Posted Value Table (Table 1-1). -/
structure Posted where
  db : PostedItem
  auto : PostedItem
  ind : PerTruck PostedItem
  av : PerAxle PostedItem
  ae : PerAxle PostedItem
  ap : PerTruck PostedItem
  gs : PostedItem
  deriving DecidableEq, Repr

/-- The entry of an item. -/
def Posted.get (v : Posted) (i : Item) : PostedItem :=
  match i with
  | .db => v.db
  | .auto => v.auto
  | .ind t => v.ind.get t
  | .av k => v.av.get k
  | .ae k => v.ae.get k
  | .ap t => v.ap.get t
  | .gs => v.gs

/-- The table with one item's entry replaced. -/
def Posted.set (v : Posted) (i : Item) (x : PostedItem) : Posted :=
  match i with
  | .db => { v with db := x }
  | .auto => { v with auto := x }
  | .ind t => { v with ind := v.ind.set t x }
  | .av k => { v with av := v.av.set k x }
  | .ae k => { v with ae := v.ae.set k x }
  | .ap t => { v with ap := v.ap.set t x }
  | .gs => { v with gs := x }

/-- First-source detail of an exception: the detail code of R180 and the time stamp (R13). -/
structure Source where
  detail : Byte
  stamp : Stamp
  deriving DecidableEq, Repr

/-- One exception kind: its flag is set exactly while it has a first source (R13), and its mask. -/
structure ExcEntry where
  source : Option Source
  masked : Bool
  deriving DecidableEq, Repr

/-- Operating modes (Table 2-3). -/
inductive Mode where
  | run | stand | maint
  deriving DecidableEq, Repr

/-- The Demand Unit (Chapter 2). -/
structure Demand where
  db : Nat
  auto : Nat
  ind : PerTruck Nat
  penalty : LinkSet
  emergency : LinkSet
  maint : LinkSet
  dBlend : Nat
  dTot : Nat
  mode : Mode
  deriving DecidableEq, Repr

/-- States and remap values of a resource (Table 3-4). -/
inductive ResState where
  | active | frozen | floor | off
  deriving DecidableEq, Repr

/-- Restart policy (R44). -/
inductive Policy where
  | keep | reset
  deriving DecidableEq, Repr

/-- One entry of the Effort Resource Table (Table 3-2) with the conditions that hold for it. Target,
command and ramping are the allocation record's figures (R38). -/
structure Entry where
  members : LinkSet
  ceiling : Nat
  floor : Nat
  riseStep : Nat
  remapStand : ResState
  remapLinkLoss : ResState
  remapLockout : ResState
  policy : Policy
  stand : Bool
  linkLoss : Bool
  lockout : Bool
  state : ResState
  deriving DecidableEq, Repr

/-- The Effort Resource Table: EA1..EA6 and AT1, AT2 (Table 3-1). -/
structure Resources where
  electric : PerAxle Entry
  air : PerTruck Entry
  deriving DecidableEq, Repr

/-- Limiting reason codes (Table 4-2). -/
inductive Reason where
  | share | ramp | ceiling | avail | adhesion | state
  deriving DecidableEq, Repr

/-- Truck slide actions (R120). -/
inductive Action where
  | none | keep | dump
  deriving DecidableEq, Repr

/-- Per-axle figures of the allocation record (Table 4-4). -/
structure AxleAlloc where
  target : Nat
  command : Nat
  ramping : Bool
  reason : Reason
  deriving DecidableEq, Repr

/-- Per-truck figures of the allocation record (Table 4-4). -/
structure TruckAlloc where
  share : Nat
  target : Nat
  command : Nat
  ramping : Bool
  roundedUp : Bool
  action : Action
  deriving DecidableEq, Repr

/-- Worst class of each input family (R11). -/
structure Worst where
  demand : Cls
  indep : Cls
  avail : Cls
  achieved : Cls
  pressure : Cls
  ground : Cls
  deriving DecidableEq, Repr

/-- The allocation record (Table 4-4). -/
structure Alloc where
  period : Nat
  revision : Nat
  dTot : Nat
  eCred : Nat
  axles : PerAxle AxleAlloc
  trucks : PerTruck TruckAlloc
  residual : Nat
  worst : Worst
  emergency : Bool
  deriving DecidableEq, Repr

/-- An air deviation timer: stopped, running since a time with an accumulated earlier run, or paused with
its accumulated run (R75, R82). -/
inductive DevRun where
  | stopped
  | running (since : Stamp) (acc : Nat)
  | paused (acc : Nat)
  deriving DecidableEq, Repr

/-- The deviation check of one truck: its timer and whether its episode has raised AIR_DEVIATION. -/
structure DevWatch where
  run : DevRun
  raised : Bool
  deriving DecidableEq, Repr

/-- The Blend Unit (Chapter 4). -/
structure Blend where
  record : Alloc
  period : Option Timer
  short : Option Timer
  shortRaised : Bool
  dev : PerTruck DevWatch
  deriving DecidableEq, Repr

/-- A tachometer qualification in progress: its first sample read the opposite of the qualified level;
`second` is the second sample once taken, `time` the 1 MHz time of the first (R87). -/
structure Qualification where
  time : Stamp
  second : Option Bool
  deriving DecidableEq, Repr

/-- One input of the Tachometer Front End: its qualified level (`true`: high), whether a sample has been
taken since the reset (the first one sets the level, R88), the qualification in progress and the noise
count. -/
structure TachInput where
  level : Bool
  sampled : Bool
  qual : Option Qualification
  noise : Nat
  deriving DecidableEq, Repr

/-- Speed Unit state of one axle (Table 5-2). -/
structure SpeedAxle where
  window : Option Timer
  edges : Nat
  firstEdge : Stamp
  lastEdge : Stamp
  history : List Stamp
  zero : Option Timer
  zeroDeclared : Bool
  speed : Nat
  cls : Cls
  decel : Int
  prevTime : Option Stamp
  prevSpeed : Nat
  prevCls : Cls
  openTimer : Option Timer
  openMark : Bool
  deriving DecidableEq, Repr

/-- The Speed Unit (Chapter 5). -/
structure SpeedUnit where
  axles : PerAxle SpeedAxle
  vref : Nat
  vrefTime : Stamp
  firstUpdate : Bool
  standstill : Bool
  still : Option Timer
  deriving DecidableEq, Repr

/-- Axle slide states (Table 6-1). -/
inductive SlideState where
  | normal | suspect | sliding | recovering | lockout | indeterminate
  deriving DecidableEq, Repr

/-- The comparison of an evaluation (R107). -/
inductive Comparison where
  | unordered | inhibited
  | creep (s : Nat)
  deriving DecidableEq, Repr

/-- Slide Unit state of one axle (Table 6-1). -/
structure SlideAxle where
  state : SlideState
  limit : Nat
  entryTime : Stamp
  recoverStart : Stamp
  history : List Stamp
  comparison : Option Comparison
  lastEval : Option Stamp
  deriving DecidableEq, Repr

/-- A running dump timer: since when, and the DUMP_MAX taken at the entry into DUMP (R123, R126). -/
structure DumpRun where
  since : Stamp
  limit : Nat
  deriving DecidableEq, Repr

/-- Slide Unit state of one truck (Table 6-1). -/
structure SlideTruck where
  action : Action
  held : Nat
  dumpAcc : Nat
  dumpRun : Option DumpRun
  exhausted : Bool
  deriving DecidableEq, Repr

/-- The Slide Unit (Chapter 6). -/
structure SlideUnit where
  axles : PerAxle SlideAxle
  trucks : PerTruck SlideTruck
  deriving DecidableEq, Repr

/-- An achieved pressure as a snapshot holds it: the substituted value, 0 where not used, and its class
(Table 7-1). -/
structure SnapPressure where
  value : Nat
  cls : Cls
  deriving DecidableEq, Repr

/-- One snapshot (Table 7-1). -/
structure Snapshot where
  stamp : Stamp
  mode : Mode
  links : PerLink LinkState
  dTot : Nat
  eCred : Nat
  commands : PerAxle Nat
  speeds : PerAxle Nat
  speedCls : PerAxle Cls
  slide : PerAxle SlideState
  vref : Nat
  pressures : PerTruck Nat
  achieved : PerTruck SnapPressure
  actions : PerTruck Action
  flags : PerKind Bool
  penalty : LinkSet
  emergency : LinkSet
  period : Nat
  revision : Nat
  deriving DecidableEq, Repr

/-- Slot states (Table 7-4). -/
inductive SlotState where
  | free | capturing | unread | read | damaged
  deriving DecidableEq, Repr

/-- The recorder's working copy of a slot (R134). -/
structure SlotCopy where
  state : SlotState
  seq : Option Word
  deriving DecidableEq, Repr

/-- The capture context (R137). -/
structure Capture where
  slot : Slot
  appended : Nat
  planned : Nat
  deriving DecidableEq, Repr

/-- The Incident Recorder (Chapter 7). `enabled` has the weight of R131 for each cause kind. -/
structure Recorder where
  ring : List Snapshot
  sample : Option Timer
  enabled : BitVec 16
  capture : Option Capture
  armed : PerSlot Bool
  lost : Bool
  restartPending : Option Byte
  slots : PerSlot SlotCopy
  freeze : Bool
  nextSeq : Word
  deriving DecidableEq, Repr

/-- A stored word of Record Memory: its data and its check value (R152). -/
structure MemWord where
  data : Word
  check : BitVec 7
  deriving DecidableEq, Repr

/-- Record Memory: the words that differ from what an unlisted address reads as, addresses strictly
rising; `losses` counts the losses of the retention supply, which decide what an unlisted address reads
as (log 8). -/
structure Memory where
  cells : List (Nat × MemWord)
  losses : Nat
  deriving DecidableEq, Repr

/-- The diagnostic selection: area code 0..8 and word index (R160). -/
structure DiagSel where
  area : Nat
  index : Nat
  deriving DecidableEq, Repr

/-- One event counter (Chapter 9). -/
structure Counter where
  sel : Nat
  count : Nat
  deriving DecidableEq, Repr

/-- The 51 parameters (Table 10-5), each with its default (Tables 1-3, 2-5, 4-11, 5-8, 6-6, 7-8 and
Section 10.4). -/
structure Params where
  tFresh : Nat := 100
  tHold : Nat := 500
  dMax : Nat := 5000
  penEffort : Nat := 4000
  tBlend : Nat := 10
  pServiceMax : Nat := 380
  pEmer : Nat := 450
  pZero : PerTruck Nat := ⟨35, 35⟩
  gain : PerTruck Nat := ⟨233, 233⟩
  shortThr : Nat := 200
  shortTime : Nat := 1000
  devTol : Nat := 30
  devTime : Nat := 1000
  tachRate : Nat := 1000
  window : Nat := 20
  teeth : Nat := 100
  circ : PerAxle Nat := ⟨3770, 3770, 3770, 3770, 3770, 3770⟩
  zeroTime : Nat := 1500
  noiseLimit : Nat := 4
  openSpeed : Nat := 1000
  openTime : Nat := 3000
  decay : Nat := 540
  rise : Nat := 720
  stillTime : Nat := 2000
  vMin : Nat := 300
  sSuspect : Nat := 80
  sSlide : Nat := 150
  sRelease : Nat := 40
  aDet : Nat := 1080
  suspectMax : Nat := 200
  recoverTime : Nat := 500
  slideMax : Nat := 4000
  lockCount : Nat := 5
  lockWindow : Nat := 60
  cutFactor : Nat := 600
  recoverRate : Nat := 20
  dumpMax : Nat := 3000
  samplePeriod : Nat := 20
  preCount : Nat := 16
  postCount : Nat := 16
  ackInFreeze : Nat := 0
  linkTimeout : PerLink Nat := ⟨100, 100, 100⟩
  deriving DecidableEq, Repr

/-- An incident trigger on its way to the recorder (R131). -/
structure Trigger where
  cause : Cause
  detail : Byte
  deriving DecidableEq, Repr

/-- Why the machine stops with a fault. -/
inductive Fault where
  /-- Raised by SAMPLE_TIMER_EXPIRY: the capture would append a snapshot at an index above 63, which names
  no word of the slot (R134). Safe: the part cannot come to it (PRE_COUNT and POST_COUNT are at most 32). -/
  | noSuchRecordWord
  deriving DecidableEq, Repr

/-- Why a command has no meaning. -/
inductive Refusal where
  /-- Raised by `exec` for a row that has no meaning yet. Safe: nothing is claimed of it. -/
  | notModelled (mnemonic : String)
  /-- Raised by UNKNOWN_REQUEST_KIND for a kind byte that Table 10-4 admits from the link: such a frame is
  that request, not this event. Safe: no such event exists. -/
  | kindIsAdmitted
  deriving DecidableEq, Repr

/-- The whole W640: every piece of state INVENTORY.md lists. -/
structure State where
  /-- commands waiting, first in first out (the model's own queue) -/
  pending : List Instr
  /-- the time counters -/
  clock : Clock
  /-- power and restart phase -/
  phase : Phase
  /-- the Link Interfaces -/
  links : PerLink LinkPort
  /-- the Posted Value Table -/
  posted : Posted
  /-- the Exception Unit -/
  exc : PerKind ExcEntry
  /-- the Demand Unit -/
  demand : Demand
  /-- the Effort Resource Table -/
  res : Resources
  /-- the Blend Unit -/
  blend : Blend
  /-- the Tachometer Front End -/
  tach : PerAxle TachInput
  /-- the Speed Unit -/
  speed : SpeedUnit
  /-- the Slide Unit -/
  slide : SlideUnit
  /-- the Incident Recorder -/
  inc : Recorder
  /-- Record Memory -/
  mem : Memory
  /-- VBAK, the retention supply, is present (R152) -/
  vbak : Bool
  /-- the record memory lost indication (R157) -/
  memLost : Bool
  /-- the diagnostic selection (R160) -/
  diag : DiagSel
  /-- the Event Counters -/
  counters : PerCounter Counter
  /-- the 51 parameters (Table 10-5) -/
  params : Params
  /-- the BRK_FAULT line, asserted or not (R36) -/
  brkFault : Bool
  /-- the lines DUMP_1 and DUMP_2 (R122) -/
  dump : PerTruck Bool
  /-- incident triggers sent and not yet arrived (the model's own; R131, log 4) -/
  sent : List Trigger
  /-- free choices of order used so far (the model's own; log 5) -/
  choice : Nat
  deriving DecidableEq, Repr

/-- `s` with commands waiting, first in first out (the model's own queue) replaced. -/
def State.setPending (s : State) (x : List Instr) : State := { s with pending := x }

/-- `s` with the time counters replaced. -/
def State.setClock (s : State) (x : Clock) : State := { s with clock := x }

/-- `s` with power and restart phase replaced. -/
def State.setPhase (s : State) (x : Phase) : State := { s with phase := x }

/-- `s` with the Link Interfaces replaced. -/
def State.setLinks (s : State) (x : PerLink LinkPort) : State := { s with links := x }

/-- `s` with the Posted Value Table replaced. -/
def State.setPosted (s : State) (x : Posted) : State := { s with posted := x }

/-- `s` with the Exception Unit replaced. -/
def State.setExc (s : State) (x : PerKind ExcEntry) : State := { s with exc := x }

/-- `s` with the Demand Unit replaced. -/
def State.setDemand (s : State) (x : Demand) : State := { s with demand := x }

/-- `s` with the Effort Resource Table replaced. -/
def State.setRes (s : State) (x : Resources) : State := { s with res := x }

/-- `s` with the Blend Unit replaced. -/
def State.setBlend (s : State) (x : Blend) : State := { s with blend := x }

/-- `s` with the Tachometer Front End replaced. -/
def State.setTach (s : State) (x : PerAxle TachInput) : State := { s with tach := x }

/-- `s` with the Speed Unit replaced. -/
def State.setSpeed (s : State) (x : SpeedUnit) : State := { s with speed := x }

/-- `s` with the Slide Unit replaced. -/
def State.setSlide (s : State) (x : SlideUnit) : State := { s with slide := x }

/-- `s` with the Incident Recorder replaced. -/
def State.setInc (s : State) (x : Recorder) : State := { s with inc := x }

/-- `s` with Record Memory replaced. -/
def State.setMem (s : State) (x : Memory) : State := { s with mem := x }

/-- `s` with the presence of VBAK, the retention supply (R152), replaced. -/
def State.setVbak (s : State) (x : Bool) : State := { s with vbak := x }

/-- `s` with the record memory lost indication (R157) replaced. -/
def State.setMemLost (s : State) (x : Bool) : State := { s with memLost := x }

/-- `s` with the diagnostic selection (R160) replaced. -/
def State.setDiag (s : State) (x : DiagSel) : State := { s with diag := x }

/-- `s` with the Event Counters replaced. -/
def State.setCounters (s : State) (x : PerCounter Counter) : State := { s with counters := x }

/-- `s` with the 51 parameters (Table 10-5) replaced. -/
def State.setParams (s : State) (x : Params) : State := { s with params := x }

/-- `s` with the BRK_FAULT line, asserted or not (R36) replaced. -/
def State.setBrkFault (s : State) (x : Bool) : State := { s with brkFault := x }

/-- `s` with the lines DUMP_1 and DUMP_2 (R122) replaced. -/
def State.setDump (s : State) (x : PerTruck Bool) : State := { s with dump := x }

/-- `s` with incident triggers sent and not yet arrived (the model's own; R131, log 4) replaced. -/
def State.setSent (s : State) (x : List Trigger) : State := { s with sent := x }

/-- `s` with free choices of order used so far (the model's own; log 5) replaced. -/
def State.setChoice (s : State) (x : Nat) : State := { s with choice := x }

/-- The NONE response of a DOWN link (R173). -/
def Response.noRequest : Response := ⟨0, 0, .none, {}⟩

/-- A Link Interface after a reset (R185). -/
def LinkPort.reset : LinkPort := ⟨.down, 0, 0, none, .noRequest, .idle, none⟩

/-- An ABSENT item with its timers stopped (R2); `postTime` as it stood. -/
def PostedItem.cleared (x : PostedItem) : PostedItem :=
  { x with cls := .absent, last := none, good := none, fresh := none, hold := none, goodHold := none }

/-- An item after a reset (R2; post time: log 12). -/
def PostedItem.reset : PostedItem := ⟨.absent, none, 0, none, none, none, none⟩

/-- The Posted Value Table after a reset (R2). -/
def Posted.reset : Posted :=
  ⟨.reset, .reset, .ofFn fun _ => .reset, .ofFn fun _ => .reset, .ofFn fun _ => .reset,
    .ofFn fun _ => .reset, .reset⟩

/-- The Exception Unit at power-on (R18). -/
def excReset : PerKind ExcEntry :=
  ⟨⟨none, true⟩, ⟨none, true⟩, ⟨none, false⟩, ⟨none, false⟩, ⟨none, false⟩, ⟨none, false⟩⟩

/-- The Demand Unit at power-on (R25, R29, R31, R34). -/
def Demand.reset : Demand := ⟨0, 0, ⟨0, 0⟩, {}, {}, {}, 0, 0, .run⟩

/-- An electric entry at power-on (Table 3-2, R58). -/
def Entry.electricReset : Entry :=
  ⟨⟨true, false, false⟩, 1000, 0, 20, .off, .off, .off, .keep, false, true, false, .off⟩

/-- An air entry at power-on (Table 3-2, R58). -/
def Entry.airReset : Entry :=
  ⟨⟨false, true, false⟩, 380, 100, 1, .floor, .off, .active, .keep, false, true, false, .off⟩

/-- The Effort Resource Table at power-on (R58). -/
def Resources.reset : Resources := ⟨.ofFn fun _ => .electricReset, .ofFn fun _ => .airReset⟩

/-- The allocation record after a reset (R85, R86). -/
def Alloc.reset : Alloc :=
  { period := 0, revision := 0, dTot := 0, eCred := 0
    axles := .ofFn fun _ => ⟨0, 0, false, .state⟩
    trucks := .ofFn fun _ => ⟨0, 0, 0, false, false, .none⟩
    residual := 0, worst := ⟨.absent, .absent, .absent, .absent, .absent, .absent⟩, emergency := false }

/-- The Blend Unit after a reset, its period timer stopped (R85, R86). -/
def Blend.reset : Blend := ⟨.reset, none, none, false, .ofFn fun _ => ⟨.stopped, false⟩⟩

/-- A tachometer input after a reset (R88, R104; the level, which the first sample sets: log 12). -/
def TachInput.reset : TachInput := ⟨false, false, none, 0⟩

/-- An axle of the Speed Unit after a reset, its timers stopped (R104; edge times and previous figures:
log 12). -/
def SpeedAxle.reset : SpeedAxle :=
  ⟨none, 0, 0, 0, [], none, false, 0, .absent, 0, none, 0, .absent, none, false⟩

/-- The Speed Unit after a reset (R104; update time: log 12). -/
def SpeedUnit.reset : SpeedUnit := ⟨.ofFn fun _ => .reset, 0, 0, true, false, none⟩

/-- An axle of the Slide Unit at power-on (R127; entry times: log 12). -/
def SlideAxle.reset : SlideAxle := ⟨.normal, 1000, 0, 0, [], none, none⟩

/-- A truck of the Slide Unit after a reset (R127). -/
def SlideTruck.reset : SlideTruck := ⟨.none, 0, 0, none, false⟩

/-- The Slide Unit at power-on (R127). -/
def SlideUnit.reset : SlideUnit := ⟨.ofFn fun _ => .reset, .ofFn fun _ => .reset⟩

/-- The Incident Recorder at power-on (R131, R151). The working copies stand at log 12's values until the
scan hands them over. -/
def Recorder.reset : Recorder :=
  { ring := [], sample := none, enabled := 0x7FFF#16, capture := none, armed := .ofFn fun _ => false
    lost := false, restartPending := none, slots := .ofFn fun _ => ⟨.free, none⟩
    freeze := false, nextSeq := 1 }

/-- The machine right after reset: PORST_N has been released, every block has its power-on state and the
power-on scan of Record Memory is running (R185; log 7). -/
def State.reset : State :=
  { pending := [], clock := ⟨0, 0, 0⟩, phase := .scanning, links := .ofFn fun _ => .reset
    posted := .reset, exc := excReset, demand := .reset, res := .reset, blend := .reset
    tach := .ofFn fun _ => .reset, speed := .reset, slide := .reset, inc := .reset
    mem := ⟨[], 0⟩, vbak := true, memLost := false, diag := ⟨0, 0⟩, counters := .ofFn fun _ => ⟨0, 0⟩
    params := {}, brkFault := true, dump := ⟨false, false⟩, sent := [], choice := 0 }

end Sys2Proof.Machine
end

