-- ==== Sys2Proof/Machine/Codes.lean ====
section
/-! DEFINITION. The codes under which named values stand in frames, snapshots and record words, the
numbered lists of axles, trucks, links, items and slots, and the packing of words. -/

namespace Sys2Proof.Machine

/-- A number as a 16-bit word of a frame or half of a record word (R171). -/
def half (n : Nat) : Half := BitVec.ofNat 16 n

/-- A clear or set item as 0 or 1 (R173). -/
def bit (b : Bool) : Nat := if b then 1 else 0

/-- The upper 16 bits of a 32-bit value. -/
def hi16 (w : Word) : Half := w.extractLsb' 16 16

/-- The lower 16 bits of a 32-bit value. -/
def lo16 (w : Word) : Half := w.extractLsb' 0 16

/-- A 32-bit word from its halves, high half first (R129, R134). -/
def join16 (h l : Half) : Word := h ++ l

/-- The high byte of a 16-bit word (R171). -/
def hi8 (w : Half) : Byte := w.extractLsb' 8 8

/-- The low byte of a 16-bit word (R171). -/
def lo8 (w : Half) : Byte := w.extractLsb' 0 8

/-- All axles in ascending number. -/
def allAxles : List Axle := [.a1, .a2, .a3, .a4, .a5, .a6]

/-- All trucks in ascending number. -/
def allTrucks : List Truck := [.t1, .t2]

/-- All links in the order P, A, M. -/
def allLinks : List LinkId := [.p, .a, .m]

/-- All incident slots in ascending number. -/
def allSlots : List Slot := [.s0, .s1, .s2, .s3, .s4, .s5, .s6, .s7]

/-- All posted items in the order of Table 1-1. -/
def allItems : List Item :=
  [.db, .auto, .ind .t1, .ind .t2, .av .a1, .av .a2, .av .a3, .av .a4, .av .a5, .av .a6, .ae .a1, .ae .a2,
    .ae .a3, .ae .a4, .ae .a5, .ae .a6, .ap .t1, .ap .t2, .gs]

/-- All exception kinds in the order of Table 1-6. -/
def allKinds : List ExcKind := [.clamped, .stale, .fault, .tach, .shortfall, .deviation]

/-- The number of an axle. -/
def axleNo : Axle → Nat
  | .a1 => 1 | .a2 => 2 | .a3 => 3 | .a4 => 4 | .a5 => 5 | .a6 => 6

/-- The number of a truck. -/
def truckNo : Truck → Nat
  | .t1 => 1 | .t2 => 2

/-- The number of an incident slot. -/
def slotNo : Slot → Nat
  | .s0 => 0 | .s1 => 1 | .s2 => 2 | .s3 => 3 | .s4 => 4 | .s5 => 5 | .s6 => 6 | .s7 => 7

/-- The truck that carries an axle (spec 00 section 4.2). -/
def truckOf : Axle → Truck
  | .a1 | .a2 | .a3 => .t1
  | .a4 | .a5 | .a6 => .t2

/-- The axles of a truck (spec 00 section 4.2). -/
def axlesOf : Truck → List Axle
  | .t1 => [.a1, .a2, .a3]
  | .t2 => [.a4, .a5, .a6]

/-- The item codes 1..19 (Table 7-3). -/
def itemCode : Item → Nat
  | .db => 1
  | .auto => 2
  | .ind t => 2 + truckNo t
  | .av k => 4 + axleNo k
  | .ae k => 10 + axleNo k
  | .ap t => 16 + truckNo t
  | .gs => 19

/-- Class codes (Table 1-2), which are also the ranks of severity (R11). -/
def clsCode : Cls → Nat
  | .valid => 0 | .clamped => 1 | .stale => 2 | .fault => 3 | .absent => 4

/-- Link state codes (R174). -/
def linkStateCode : LinkState → Nat
  | .down => 0 | .joining => 1 | .up => 2

/-- Mode codes (Table 2-3). -/
def modeCode : Mode → Nat
  | .run => 0 | .stand => 1 | .maint => 2

/-- State and remap codes (Section 3.1); a greater code is more restrictive (Table 3-4). -/
def resStateCode : ResState → Nat
  | .active => 0 | .frozen => 1 | .floor => 2 | .off => 3

/-- Restart policy codes (Section 3.1). -/
def policyCode : Policy → Nat
  | .keep => 0 | .reset => 1

/-- Limiting reason codes (Table 4-2). -/
def reasonCode : Reason → Nat
  | .share => 0 | .ramp => 1 | .ceiling => 2 | .avail => 3 | .adhesion => 4 | .state => 5

/-- Slide action codes (Table 4-4). -/
def actionCode : Action → Nat
  | .none => 0 | .keep => 1 | .dump => 2

/-- Slide state codes (Section 6.1). -/
def slideStateCode : SlideState → Nat
  | .normal => 0 | .suspect => 1 | .sliding => 2 | .recovering => 3 | .lockout => 4 | .indeterminate => 5

/-- Slot state codes (Table 7-4). -/
def slotStateCode : SlotState → Nat
  | .free => 0 | .capturing => 1 | .unread => 2 | .read => 3 | .damaged => 4

/-- Status codes (Table 10-2). -/
def statusCode : Status → Nat
  | .ok => 0 | .none => 1 | .checkFailed => 2 | .aborted => 3 | .refusedKind => 4 | .refusedRange => 5
  | .refusedState => 6 | .refusedMember => 7 | .damagedData => 8

/-- Cause kind codes (Table 7-3). -/
def causeCode : Cause → Nat
  | .slideOnset => 0 | .axleLockout => 1 | .dumpTimeout => 2 | .linkLossP => 3 | .linkLossA => 4
  | .linkLossM => 5 | .emergency => 6 | .penalty => 7 | .excInputClamped => 8 | .excInputStale => 9
  | .excInputFault => 10 | .excTachFault => 11 | .excShortfall => 12 | .excAirDeviation => 13
  | .manualMark => 14 | .restart => 15

/-- The weight of a link in a link set code (Section 3.1). -/
def linkWeight : LinkId → Nat
  | .p => 1 | .a => 2 | .m => 4

/-- The weight of an exception kind (R129). -/
def kindWeight : ExcKind → Nat
  | .clamped => 1 | .stale => 2 | .fault => 4 | .tach => 8 | .shortfall => 16 | .deviation => 32

/-- Whether a link set holds a link. -/
def LinkSet.has (x : LinkSet) : LinkId → Bool
  | .p => x.p | .a => x.a | .m => x.m

/-- A link set with one link put in or taken out. -/
def LinkSet.put (x : LinkSet) (l : LinkId) (b : Bool) : LinkSet :=
  match l with
  | .p => { x with p := b }
  | .a => { x with a := b }
  | .m => { x with m := b }

/-- Whether a link set holds any link. -/
def LinkSet.any (x : LinkSet) : Bool := x.p || x.a || x.m

/-- Link set code (Section 3.1). -/
def LinkSet.code (x : LinkSet) : Nat := bit x.p + 2 * bit x.a + 4 * bit x.m

/-- The link set of a code; bits above the third are dropped. -/
def LinkSet.ofCode (n : Nat) : LinkSet := ⟨n.testBit 0, n.testBit 1, n.testBit 2⟩

/-- The state of a code 0..3 (Section 3.1). -/
def resStateOf : Nat → Option ResState
  | 0 => some .active
  | 1 => some .frozen
  | 2 => some .floor
  | 3 => some .off
  | _ => none

/-- The slot state of a code 0..4 (Table 7-4). -/
def slotStateOf : Nat → Option SlotState
  | 0 => some .free
  | 1 => some .capturing
  | 2 => some .unread
  | 3 => some .read
  | 4 => some .damaged
  | _ => none

/-- A set of exception kinds as the sum of its weights (R129). -/
def kindSetCode (f : PerKind Bool) : Nat :=
  bit f.clamped + 2 * bit f.stale + 4 * bit f.fault + 8 * bit f.tach + 16 * bit f.shortfall
    + 32 * bit f.deviation

/-- The set of exception kinds of a sum of weights. -/
def kindSetOf (n : Nat) : PerKind Bool :=
  ⟨n.testBit 0, n.testBit 1, n.testBit 2, n.testBit 3, n.testBit 4, n.testBit 5⟩

/-- A set of axles as the sum of the weights 1, 2, 4, 8, 16, 32 (R78). -/
def axleSetCode (f : Axle → Bool) : Nat :=
  bit (f .a1) + 2 * bit (f .a2) + 4 * bit (f .a3) + 8 * bit (f .a4) + 16 * bit (f .a5) + 32 * bit (f .a6)

/-- A set of trucks as the sum of the weights 1, 2 (R78). -/
def truckSetCode (f : Truck → Bool) : Nat := bit (f .t1) + 2 * bit (f .t2)

/-- The link states of P, A and M in one word (Table 7-2, R180). -/
def linkStatesCode (f : LinkId → LinkState) : Nat :=
  linkStateCode (f .p) * 16 + linkStateCode (f .a) * 4 + linkStateCode (f .m)

end Sys2Proof.Machine
end

