-- ==== Sys2Proof/Machine/Ops.lean ====
section
/-! DEFINITION. The named operations that the blocks share: time and timers, event counters, incident
triggers, the order of hand-offs the manual leaves open, and the allocation record's cuts. -/

namespace Sys2Proof.Machine

/-! Time -/

/-- The time from `start` to `now`, formed modulo 2^32 (R87, R114). -/
def elapsed (now start : Stamp) : Nat := (now - start).toNat

/-- The present time in ms. -/
def State.now (s : State) : Stamp := s.clock.ms

/-- A timer started now for a run of `run` ms. -/
def State.startTimer (s : State) (run : Nat) : Option Timer := some ⟨s.now, run⟩

/-- A timer's run has passed. -/
def Timer.over (t : Timer) (now : Stamp) : Bool := decide (t.run ≤ elapsed now t.start)

/-- A running timer placed so that its full run is the new value (R9, R103). -/
def rerun (t : Option Timer) (run : Nat) : Option Timer := t.map fun x => { x with run := run }

/-- A timer is running and its run has passed. -/
def overNow (t : Option Timer) (now : Stamp) : Bool :=
  match t with
  | some x => x.over now
  | none => false

/-- One µs of the 1 MHz timebase; every 1000 of them one ms (Table 0-3). -/
def Clock.tick (c : Clock) : Clock :=
  if 999 ≤ c.sub then ⟨c.ms + 1, c.us + 1, 0⟩ else ⟨c.ms, c.us + 1, c.sub + 1⟩

/-- The reference clock runs on while the part is out of PORST_N and has its supply (log 2). -/
def State.tick (s : State) : State :=
  match s.phase with
  | .unpowered | .held => s
  | .scanning | .running | .restarting => s.setClock s.clock.tick

/-- Whether the part takes events other than those of the supplies and resets (R169, R185). -/
def State.inService (s : State) : Bool := decide (s.phase = .running)

/-- An event that the part takes only while it is in service (R169, R184, R185; log 9). -/
def State.ifInService (s : State) (f : State → State) : State := if s.inService then f s else s

/-! Expiries -/

/-- The run of a deviation timer so far: its accumulated running time without its pauses (R82). -/
def DevRun.sofar (d : DevRun) (now : Stamp) : Nat :=
  match d with
  | .stopped => 0
  | .running since acc => acc + elapsed now since
  | .paused acc => acc

/-- The deviation timer is running, not stopped or paused. -/
def DevRun.runs : DevRun → Bool
  | .running _ _ => true
  | .stopped | .paused _ => false

/-- A dump timer's accumulated run has reached the DUMP_MAX of its entry (R123). -/
def SlideTruck.dumpOver (x : SlideTruck) (now : Stamp) : Bool :=
  match x.dumpRun with
  | some r => decide (r.limit ≤ x.dumpAcc + elapsed now r.since)
  | none => false

/-- A timer is running and its run has passed. -/
def State.passed (s : State) (t : Option Timer) : Bool := overNow t s.now

/-- An expiry is due: its timer is running and its run has passed. A timer that was restarted or stopped
since has no expiry (R6, R90, R93, R99, R123). A command that is no expiry is always due (log 3). -/
def State.due (s : State) : Instr → Bool
  | .linkTimeoutExpiry l => s.passed (s.links.get l).timeout
  | .freshExpiry i => s.passed (s.posted.get i).fresh
  | .holdExpiry i => s.passed (s.posted.get i).hold
  | .goodHoldExpiry i => s.passed (s.posted.get i).goodHold
  | .blendPeriodExpiry => s.passed s.blend.period
  | .shortfallTimerExpiry => s.passed s.blend.short
  | .airDeviationTimerExpiry t =>
    (s.blend.dev.get t).run.runs && decide (s.params.devTime ≤ (s.blend.dev.get t).run.sofar s.now)
  | .windowExpiry k => s.passed (s.speed.axles.get k).window
  | .zeroTimerExpiry k => s.passed (s.speed.axles.get k).zero
  | .openTachTimerExpiry k => s.passed (s.speed.axles.get k).openTimer
  | .standstillTimerExpiry => s.passed s.speed.still
  | .dumpTimerExpiry t => (s.slide.trucks.get t).dumpOver s.now
  | .sampleTimerExpiry => s.passed s.inc.sample
  | _ => true

/-- An expiry: in service and when due it has its effect, and otherwise it does not happen (log 3). -/
def State.expire (s : State) (c : Instr) (f : State → State) : State :=
  s.ifInService fun u => if u.due c then f u else u

/-! Event counters -/

/-- One counter at an occurrence of event `n` (R163). -/
def Counter.occur (n : Nat) (c : Counter) : Counter :=
  if c.sel = n ∧ c.count < 65535 then { c with count := c.count + 1 } else c

/-- An occurrence of event `n` (R163). -/
def State.count (s : State) (n : Nat) : State :=
  s.setCounters (.ofFn fun i => (s.counters.get i).occur n)

/-- `times` occurrences of event `n` (R164). -/
def State.countMany (s : State) (n : Nat) : Nat → State
  | 0 => s
  | times + 1 => (s.count n).countMany n times

/-! Incident triggers -/

/-- A block sends a trigger to the Incident Recorder, where it arrives as an event of its own
(Section 7.2; log 4). -/
def State.send (s : State) (c : Cause) (detail : Nat) : State :=
  s.setSent (s.sent ++ [⟨c, BitVec.ofNat 8 detail⟩])

/-! Hand-offs in an order the manual leaves open -/

/-- Applies the hand-offs one after another; where more than one is left, a free choice names the next
(R81, R178; log 5). -/
def anyOrder : Nat → List (State → State) → State → State
  | 0, _, s => s
  | _ + 1, [], s => s
  | _ + 1, [f], s => f s
  | n + 1, f :: g :: rest, s =>
    let fs := f :: g :: rest
    let i := Config.freeChoice s.choice % fs.length
    anyOrder n (fs.eraseIdx i) ((fs.getD i f) (s.setChoice (s.choice + 1)))

/-- All the hand-offs, in an order left open. -/
def inAnyOrder (fs : List (State → State)) (s : State) : State := anyOrder fs.length fs s

/-- Applies a hand-off for each item of a list, in the list's order. -/
def forEach {α : Type} (xs : List α) (f : α → State → State) (s : State) : State :=
  xs.foldl (fun t x => f x t) s

/-! Cuts of the allocation record (Section 4.12) -/

/-- The revision rises by 1 and stays at 65535 (R77). -/
def Alloc.bump (r : Alloc) : Alloc :=
  { r with revision := if r.revision < 65535 then r.revision + 1 else r.revision }

/-- The figures of a cut axle (R45, R79). -/
def AxleAlloc.cut (x : AxleAlloc) (bound : Nat) (why : Reason) : AxleAlloc :=
  { target := bound, command := min x.command bound
    ramping := decide (min x.command bound < bound), reason := why }

/-- A reduction concerning axle `k`, applied if its bound lies below the target (R79). -/
def Alloc.reduceAxle (r : Alloc) (k : Axle) (bound : Nat) (why : Reason) : Alloc :=
  if bound < (r.axles.get k).target then
    { r.bump with axles := r.axles.set k ((r.axles.get k).cut bound why) }
  else r

/-- The figures of a cut truck (R45, R80). -/
def TruckAlloc.cut (x : TruckAlloc) (bound : Nat) : TruckAlloc :=
  { x with target := bound, command := min x.command bound
           ramping := decide (min x.command bound < bound) }

/-- A reduction concerning truck `t`, applied if its bound lies below the pressure target (R80). -/
def Alloc.reduceTruck (r : Alloc) (t : Truck) (bound : Nat) : Alloc :=
  if bound < (r.trucks.get t).target then
    { r.bump with trucks := r.trucks.set t ((r.trucks.get t).cut bound) }
  else r

/-- The state with another allocation record. -/
def State.setRecord (s : State) (r : Alloc) : State := s.setBlend { s.blend with record := r }

/-- The Blend Unit takes a limit reduction for an axle (R79). -/
def State.reduceAxle (s : State) (k : Axle) (bound : Nat) (why : Reason) : State :=
  s.setRecord (s.blend.record.reduceAxle k bound why)

/-- The Blend Unit takes a limit reduction for a truck (R80). -/
def State.reduceTruck (s : State) (t : Truck) (bound : Nat) : State :=
  s.setRecord (s.blend.record.reduceTruck t bound)

/-- Emergency is in force: the emergency holder set is not empty (Section 2.4). -/
def State.emergencyInForce (s : State) : Bool := s.demand.emergency.any

/-- Penalty is in force: the penalty holder set is not empty (Section 2.3). -/
def State.penaltyInForce (s : State) : Bool := s.demand.penalty.any

/-- The Blend Unit takes a reduction of a truck from the Effort Resource Table: while emergency is in
force, one that carries a bound above 0 leaves a pressure target at P_EMER as it is (R52, R80). -/
def State.reduceTruckByTable (s : State) (t : Truck) (bound : Nat) : State :=
  if s.emergencyInForce ∧ 0 < bound ∧ (s.blend.record.trucks.get t).target = s.params.pEmer then s
  else s.reduceTruck t bound

/-- The axle's present command in the allocation record. -/
def State.command (s : State) (k : Axle) : Nat := (s.blend.record.axles.get k).command

/-- The truck's present pressure command in the allocation record. -/
def State.pressure (s : State) (t : Truck) : Nat := (s.blend.record.trucks.get t).command

end Sys2Proof.Machine
end

