-- ==== Sys2Proof/Machine/Flags.lean ====
section
/-! DEFINITION. The flags of the part: the Exception Unit's six sticky flags with their masks
(Section 1.6), the recorder's NEW (R145), and the sets in which they are shown. -/

namespace Sys2Proof.Machine

/-- The flag of an exception kind (R13). -/
def excFlag (e : ExcEntry) : Bool := e.source.isSome

/-- The six flags. -/
def State.excFlags (s : State) : PerKind Bool := .ofFn fun k => excFlag (s.exc.get k)

/-- The six masks. -/
def State.excMasks (s : State) : PerKind Bool := .ofFn fun k => (s.exc.get k).masked

/-- The flags as a sum of weights (R129). -/
def State.flagsCode (s : State) : Nat := kindSetCode s.excFlags

/-- The set of masked kinds as a sum of weights (R17). -/
def State.masksCode (s : State) : Nat := kindSetCode s.excMasks

/-- Any exception flag is set (R174). -/
def State.anyFlag (s : State) : Bool := allKinds.any fun k => excFlag (s.exc.get k)

/-- The cause kind of an exception kind's trigger (Table 1-6). -/
def causeOfKind : ExcKind → Cause
  | .clamped => .excInputClamped
  | .stale => .excInputStale
  | .fault => .excInputFault
  | .tach => .excTachFault
  | .shortfall => .excShortfall
  | .deviation => .excAirDeviation

/-- An occurrence sets a clear flag with its detail and stamp, and leaves a set one (R13). -/
def ExcEntry.occur (e : ExcEntry) (detail : Nat) (stamp : Stamp) : ExcEntry :=
  match e.source with
  | some _ => e
  | none => { e with source := some ⟨BitVec.ofNat 8 detail, stamp⟩ }

/-- An occurrence of an exception kind: the flag under R13, and the trigger of an unmasked kind for every
occurrence (R14). -/
def State.occur (s : State) (k : ExcKind) (detail : Nat) : State :=
  let s₁ := s.setExc (s.exc.set k ((s.exc.get k).occur detail s.now))
  if (s.exc.get k).masked then s₁ else s₁.send (causeOfKind k) detail

/-- Clears the flags and details of the named kinds (R16). -/
def clearKinds (e : PerKind ExcEntry) (named : PerKind Bool) : PerKind ExcEntry :=
  .ofFn fun k => if named.get k then { e.get k with source := none } else e.get k

/-- Replaces all six masks (R17). -/
def setMasks (e : PerKind ExcEntry) (named : PerKind Bool) : PerKind ExcEntry :=
  .ofFn fun k => { e.get k with masked := named.get k }

/-- NEW holds while any slot is UNREAD (R145). -/
def State.newIncident (s : State) : Bool :=
  allSlots.any fun i => decide ((s.inc.slots.get i).state = .unread)

end Sys2Proof.Machine
end

