-- ==== Sys2Proof/Machine/Operands.lean ====
section
/-! DEFINITION. The operand forms of a request frame: what the selector byte, the field code byte, the
fault markers and the parameter words name (R1, R171 and the request rules). -/

namespace Sys2Proof.Machine

/-- The thirteen words of a frame in order. -/
def wordList (w : Words) : List Half :=
  [w.w1, w.w2, w.w3, w.w4, w.w5, w.w6, w.w7, w.w8, w.w9, w.w10, w.w11, w.w12, w.w13]

/-- The thirteen words from a list; words beyond its end are 0 (R171). -/
def wordsOf (xs : List Half) : Words :=
  { w1 := xs.getD 0 0, w2 := xs.getD 1 0, w3 := xs.getD 2 0, w4 := xs.getD 3 0, w5 := xs.getD 4 0
    w6 := xs.getD 5 0, w7 := xs.getD 6 0, w8 := xs.getD 7 0, w9 := xs.getD 8 0, w10 := xs.getD 9 0
    w11 := xs.getD 10 0, w12 := xs.getD 11 0, w13 := xs.getD 12 0 }

/-- Data words from numbers, in order from data word 1 (R173). -/
def dataOf (ns : List Nat) : Words := wordsOf (ns.map half)

/-- The parameter word of item `i` of a posting, counting from 0, as a signed number (R1). -/
def postedNumber (r : Req) (i : Nat) : Int := ((wordList r.words).getD i 0).toInt

/-- The fault marker of item `i` of a posting, counting from 0 (R171). -/
def faultMarker (r : Req) (i : Nat) : Bool := r.field.getLsbD i

/-- The selector byte as a number. -/
def selectorNo (r : Req) : Nat := r.selector.toNat

/-- The first parameter word as an unsigned number (R171). -/
def param1 (r : Req) : Nat := r.words.w1.toNat

/-- The second parameter word as an unsigned number. -/
def param2 (r : Req) : Nat := r.words.w2.toNat

/-- The third parameter word as an unsigned number. -/
def param3 (r : Req) : Nat := r.words.w3.toNat

/-- The axle of a number 1..6. -/
def axleOf : Nat → Option Axle
  | 1 => some .a1
  | 2 => some .a2
  | 3 => some .a3
  | 4 => some .a4
  | 5 => some .a5
  | 6 => some .a6
  | _ => none

/-- The slot of a number 0..7. -/
def slotOf : Nat → Option Slot
  | 0 => some .s0
  | 1 => some .s1
  | 2 => some .s2
  | 3 => some .s3
  | 4 => some .s4
  | 5 => some .s5
  | 6 => some .s6
  | 7 => some .s7
  | _ => none

/-- The counter of a number 0..3. -/
def counterOf : Nat → Option CounterNo
  | 0 => some .c0
  | 1 => some .c1
  | 2 => some .c2
  | 3 => some .c3
  | _ => none

/-- The number of a counter. -/
def counterIndex : CounterNo → Nat
  | .c0 => 0 | .c1 => 1 | .c2 => 2 | .c3 => 3

/-- A resource of Table 3-1: an electric brake of an axle or an air brake of a truck. -/
inductive Resource where
  | electric (k : Axle)
  | air (t : Truck)
  deriving DecidableEq, Repr

/-- The resource of a code 1..8 (Table 3-1). -/
def resourceOf : Nat → Option Resource
  | 1 => some (.electric .a1)
  | 2 => some (.electric .a2)
  | 3 => some (.electric .a3)
  | 4 => some (.electric .a4)
  | 5 => some (.electric .a5)
  | 6 => some (.electric .a6)
  | 7 => some (.air .t1)
  | 8 => some (.air .t2)
  | _ => none

/-- The written fields of an entry (Table 3-2, field codes 0..7). -/
inductive Field where
  | members | ceiling | floor | riseStep | remapStand | remapLinkLoss | remapLockout | policy
  deriving DecidableEq, Repr

/-- The field of a code 0..7 (Table 3-2). -/
def fieldOf : Nat → Option Field
  | 0 => some .members
  | 1 => some .ceiling
  | 2 => some .floor
  | 3 => some .riseStep
  | 4 => some .remapStand
  | 5 => some .remapLinkLoss
  | 6 => some .remapLockout
  | 7 => some .policy
  | _ => none

end Sys2Proof.Machine
end

