-- ==== Sys2Proof/Machine/Frame.lean ====
section
/-! DEFINITION. The link frame: the CRC, the byte layout, the request catalogue with its admitted links,
and the response frame with its summary byte (Sections 10.2, 10.3 and Table 10-4). -/

namespace Sys2Proof.Machine

/-- The generator polynomial without its highest term (R172). -/
def crcPoly : Half := 0x1021#16

/-- One bit fed to the CRC register (R172 step 3). -/
def crcBit (r : Half) (b : Bool) : Half := if r.msb != b then (r <<< 1) ^^^ crcPoly else r <<< 1

/-- One byte fed to the CRC register, most significant bit first (R172 step 2). -/
def crcByte (r : Half) (b : Byte) : Half :=
  [7, 6, 5, 4, 3, 2, 1, 0].foldl (fun x i => crcBit x (b.getLsbD i)) r

/-- The CRC of a list of bytes (R172). -/
def crcOf (bytes : List Byte) : Half := bytes.foldl crcByte 0xFFFF#16

/-- A word's two bytes, high byte first (R171). -/
def wordBytes (w : Half) : List Byte := [hi8 w, lo8 w]

/-- Bytes 0 to 29 of a frame (Table 10-1). -/
def frameBody (b₀ b₁ b₂ b₃ : Byte) (w : Words) : List Byte :=
  [b₀, b₁, b₂, b₃] ++ (wordList w).flatMap wordBytes

/-- A whole frame: its body and the CRC over it, high byte first (Table 10-1, R172). -/
def frameOf (b₀ b₁ b₂ b₃ : Byte) (w : Words) : List Byte :=
  frameBody b₀ b₁ b₂ b₃ w ++ wordBytes (crcOf (frameBody b₀ b₁ b₂ b₃ w))

/-- The links that a request kind is admitted from; none for a code that Table 10-4 does not list. -/
def admittedFrom (kind : Nat) : LinkSet :=
  let onlyP : LinkSet := ⟨true, false, false⟩
  let onlyA : LinkSet := ⟨false, true, false⟩
  let onlyM : LinkSet := ⟨false, false, true⟩
  let anyLink : LinkSet := ⟨true, true, true⟩
  match kind with
  | 1 => anyLink
  | 16 | 17 | 18 | 19 => onlyP
  | 20 | 21 | 22 => onlyA
  | 32 | 33 => anyLink
  | 34 => onlyM
  | 35 | 36 => ⟨false, true, true⟩
  | 37 => ⟨true, true, false⟩
  | 48 | 49 | 50 | 51 | 52 | 53 => anyLink
  | 64 | 65 | 66 | 67 | 68 | 69 | 70 => onlyM
  | 80 => onlyM
  | 81 | 82 => anyLink
  | 96 | 97 => onlyM
  | 98 => anyLink
  | 112 | 113 | 114 => onlyM
  | 128 => onlyM
  | _ => {}

/-- Table 10-4 admits the kind from the link (R179 check 1). -/
def admits (kind : Byte) (l : LinkId) : Bool := (admittedFrom kind.toNat).has l

/-- The kind is a posting request (Table 10-4, R179 check 2). -/
def isPosting (kind : Byte) : Bool := decide (16 ≤ kind.toNat) && decide (kind.toNat ≤ 22)

/-- The summary byte of a response on link `l` (R174). -/
def State.summary (s : State) (l : LinkId) : Nat :=
  modeCode s.demand.mode + 4 * linkStateCode (s.links.get l).state + 16 * bit s.newIncident
    + 32 * bit s.anyFlag + 64 * bit s.inc.freeze + 128 * bit s.emergencyInForce

/-- The response frame of link `l` as formed at the start of the transfer that carries it (R173). -/
def State.responseFrame (s : State) (l : LinkId) : List Byte :=
  let x := (s.links.get l).response
  frameOf x.kind x.tag (BitVec.ofNat 8 (statusCode x.status)) (BitVec.ofNat 8 (s.summary l)) x.data

/-- The kind byte and the contents of the frame that brings a command (Table 10-4); none for an event that
no passing frame brings. -/
def requestParts : Instr → Option (Byte × Req)
  | .nop r => some (1, r)
  | .postDb r => some (16, r)
  | .postAvail r => some (17, r)
  | .postAchieved r => some (18, r)
  | .postGround r => some (19, r)
  | .postAuto r => some (20, r)
  | .postInd r => some (21, r)
  | .postPressure r => some (22, r)
  | .penaltySet r => some (32, r)
  | .penaltyClear r => some (33, r)
  | .penaltyReset r => some (34, r)
  | .emerSet r => some (35, r)
  | .emerClear r => some (36, r)
  | .modeReq r => some (37, r)
  | .writeRes r => some (48, r)
  | .readRes r => some (49, r)
  | .readAlloc r => some (50, r)
  | .readStatus r => some (51, r)
  | .readAxle r => some (52, r)
  | .readParam r => some (53, r)
  | .writeParam r => some (64, r)
  | .setMask r => some (65, r)
  | .clearExc r => some (66, r)
  | .setTriggers r => some (67, r)
  | .mark r => some (68, r)
  | .freezeRelease r => some (69, r)
  | .clearLockout r => some (70, r)
  | .readIncStatus r => some (80, r)
  | .readIncHeader r => some (81, r)
  | .readIncSnap r => some (82, r)
  | .setCounter r => some (96, r)
  | .clearCounter r => some (97, r)
  | .readCounter r => some (98, r)
  | .diagSelect r => some (112, r)
  | .diagRead r => some (113, r)
  | .diagWrite r => some (114, r)
  | .restart r => some (128, r)
  | .unknownRequestKind kind r => some (kind, r)
  | .frameCheckFailure _
  | .transferAbort _
  | .linkTimeoutExpiry _
  | .transferStart _
  | .freshExpiry _
  | .holdExpiry _
  | .goodHoldExpiry _
  | .blendPeriodExpiry
  | .shortfallTimerExpiry
  | .airDeviationTimerExpiry _
  | .tachQualification _ _
  | .tachSample _ _
  | .windowExpiry _
  | .zeroTimerExpiry _
  | .openTachTimerExpiry _
  | .standstillTimerExpiry
  | .dumpTimerExpiry _
  | .sampleTimerExpiry
  | .incidentTrigger _ _
  | .porstNAssert
  | .powerOn
  | .powerOnScanComplete _
  | .wrstNAssert
  | .warmRestartComplete
  | .powerLoss
  | .retentionSupplyLoss => none

/-- The request of a kind code that Table 10-4 lists. -/
def requestOf (kind : Nat) (r : Req) : Option Instr :=
  match kind with
  | 1 => some (.nop r)
  | 16 => some (.postDb r)
  | 17 => some (.postAvail r)
  | 18 => some (.postAchieved r)
  | 19 => some (.postGround r)
  | 20 => some (.postAuto r)
  | 21 => some (.postInd r)
  | 22 => some (.postPressure r)
  | 32 => some (.penaltySet r)
  | 33 => some (.penaltyClear r)
  | 34 => some (.penaltyReset r)
  | 35 => some (.emerSet r)
  | 36 => some (.emerClear r)
  | 37 => some (.modeReq r)
  | 48 => some (.writeRes r)
  | 49 => some (.readRes r)
  | 50 => some (.readAlloc r)
  | 51 => some (.readStatus r)
  | 52 => some (.readAxle r)
  | 53 => some (.readParam r)
  | 64 => some (.writeParam r)
  | 65 => some (.setMask r)
  | 66 => some (.clearExc r)
  | 67 => some (.setTriggers r)
  | 68 => some (.mark r)
  | 69 => some (.freezeRelease r)
  | 70 => some (.clearLockout r)
  | 80 => some (.readIncStatus r)
  | 81 => some (.readIncHeader r)
  | 82 => some (.readIncSnap r)
  | 96 => some (.setCounter r)
  | 97 => some (.clearCounter r)
  | 98 => some (.readCounter r)
  | 112 => some (.diagSelect r)
  | 113 => some (.diagRead r)
  | 114 => some (.diagWrite r)
  | 128 => some (.restart r)
  | _ => none

end Sys2Proof.Machine
end

