-- ==== Sys2Proof/WellFormed.lean ====
section
/-! DEFINITION. Well-formed commands: what the masters, the timers and the blocks can send. -/

namespace Sys2Proof

/-- The detail codes of a cause kind (Table 7-3). -/
def Cause.admitsDetail (c : Cause) (d : Nat) : Bool :=
  match c with
  | .slideOnset | .axleLockout | .excTachFault => decide (1 ≤ d) && decide (d ≤ 6)
  | .dumpTimeout | .linkLossP | .linkLossA | .linkLossM | .excAirDeviation | .restart =>
    decide (1 ≤ d) && decide (d ≤ 2)
  | .emergency => decide (d = 2) || decide (d = 4)
  | .penalty => decide (d = 1) || decide (d = 2) || decide (d = 4)
  | .excInputClamped | .excInputStale | .excInputFault => decide (1 ≤ d) && decide (d ≤ 19)
  | .excShortfall => decide (d = 0)
  | .manualMark => true

/-- A command is well formed: a request comes from a link that Table 10-4 admits it from, a frame of an
unknown or not admitted kind carries such a kind, and a trigger has a detail of its kind (Table 7-3). -/
def Instr.wf (i : Instr) : Bool :=
  match i with
  | .unknownRequestKind kind r => !Machine.admits kind r.link
  | .incidentTrigger c d => c.admitsDetail d.toNat
  | _ =>
    match Machine.requestParts i with
    | some (kind, r) => Machine.admits kind r.link
    | none => true

end Sys2Proof
end

