-- ==== Sys2Proof/Decode.lean ====
section
/-! DEFINITION. Frames and commands: the command that a received frame is, and the frame of a command
(R171, R172, R179, Table 10-4). The opcode table gives its rows no bits (log 31). -/

namespace Sys2Proof

open Sys2Proof.Machine

/-- The command that an opcode-table word spells: the table gives no row any bits, so none. -/
def decodeTableWord (_nbits _w : Nat) : Option Instr := none

/-- The words of a list of bytes, high byte first; a byte left over is dropped. -/
def pairUp : List Byte → List Half
  | h :: l :: rest => (h ++ l) :: pairUp rest
  | [_] => []
  | [] => []

/-- The contents of a request frame on link `l` (Table 10-1). -/
def reqOfBytes (l : LinkId) (bytes : List Byte) : Req :=
  { link := l, tag := bytes.getD 1 0, selector := bytes.getD 2 0, field := bytes.getD 3 0
    words := wordsOf (pairUp ((bytes.drop 4).take 26)) }

/-- The command of a passing frame's kind and contents (R179 check 1). -/
def requestFrom (kind : Byte) (r : Req) : Instr :=
  if admits kind r.link then (requestOf kind.toNat r).getD (.unknownRequestKind kind r)
  else .unknownRequestKind kind r

/-- The frame passes its check (R172). -/
def framePasses (bytes : List Byte) : Bool :=
  decide (wordBytes (crcOf (bytes.take 30)) = bytes.drop 30)

/-- The command that 32 bytes received on link `l` are; none for another number of bytes. -/
def decodeFrame (l : LinkId) (bytes : List Byte) : Option Instr :=
  if bytes.length = 32 then
    if framePasses bytes then some (requestFrom (bytes.getD 0 0) (reqOfBytes l bytes))
    else some (.frameCheckFailure l)
  else none

/-- The link and the frame that bring a command; none for an event that no passing frame brings. -/
def encodeFrame (i : Instr) : Option (LinkId × List Byte) :=
  match requestParts i with
  | some (kind, r) => some (r.link, frameOf kind r.tag r.selector r.field r.words)
  | none => none

end Sys2Proof
end

