-- ==== Sys2Proof/Machine/Resources.lean ====
section
/-! DEFINITION. The Effort Resource Table: derivation of states from conditions and remaps, and the
reductions it sends (Chapter 3), with the BRK_FAULT line that its LOCKOUT conditions feed (R36). -/

namespace Sys2Proof.Machine

/-- The more restrictive of two states, in the order of Table 3-4. -/
def stricter (x y : ResState) : ResState := if resStateCode x < resStateCode y then y else x

/-- The state of an entry: the most restrictive remap among the conditions that hold, ACTIVE when none
does (R49). -/
def Entry.derive (e : Entry) : ResState :=
  stricter (stricter (if e.stand then e.remapStand else .active) (if e.linkLoss then e.remapLinkLoss else .active))
    (if e.lockout then e.remapLockout else .active)

/-- The set of conditions holding: STAND 1, LINK_LOSS 2, LOCKOUT 4 (Section 3.1). -/
def Entry.conditions (e : Entry) : Nat := bit e.stand + 2 * bit e.linkLoss + 4 * bit e.lockout

/-- The bound of an electric resource's state; `none`: none beyond the present command (Table 3-6). -/
def electricBound (e : Entry) : Option Nat :=
  match e.state with
  | .active => some e.ceiling
  | .frozen => none
  | .floor => some e.floor
  | .off => some 0

/-- The bound of an air resource's state, given P_SERVICE_MAX (Table 3-6). -/
def airStateBound (pServiceMax : Nat) (e : Entry) : Option Nat :=
  match e.state with
  | .active => some (min e.ceiling pServiceMax)
  | .frozen => none
  | .floor => some (min e.ceiling pServiceMax)
  | .off => some 0

/-- The air bound of AT_t: the lesser of its ceiling and P_SERVICE_MAX (R40). -/
def State.airBound (s : State) (t : Truck) : Nat := min (s.res.air.get t).ceiling s.params.pServiceMax

/-- The state with one electric entry replaced. -/
def State.setElectric (s : State) (k : Axle) (e : Entry) : State :=
  s.setRes { s.res with electric := s.res.electric.set k e }

/-- The state with one air entry replaced. -/
def State.setAir (s : State) (t : Truck) (e : Entry) : State :=
  s.setRes { s.res with air := s.res.air.set t e }

/-- EA_k takes the entry `e`, whose fields or conditions may have changed and whose state is the one held
so far; its state is re-derived (R49), and a changed state whose bound lies below the command sends a
reduction (R50). -/
def State.rederiveElectric (s : State) (k : Axle) (e : Entry) : State :=
  let e₁ : Entry := { e with state := e.derive }
  let s₁ := s.setElectric k e₁
  if e₁.state = e.state then s₁
  else
    match electricBound e₁ with
    | some b => if b < s.command k then s₁.reduceAxle k b .state else s₁
    | none => s₁

/-- AT_t takes the entry `e`, as `rederiveElectric` does for EA_k (R49, R50, R52). -/
def State.rederiveAir (s : State) (t : Truck) (e : Entry) : State :=
  let e₁ : Entry := { e with state := e.derive }
  let s₁ := s.setAir t e₁
  if e₁.state = e.state then s₁
  else
    match airStateBound s.params.pServiceMax e₁ with
    | some b => if b < s.pressure t then s₁.reduceTruckByTable t b else s₁
    | none => s₁

/-- The condition STAND of all eight entries follows the mode (R46). -/
def State.refreshStand (s : State) : State :=
  let on := decide (s.demand.mode = .stand)
  forEach allTrucks (fun t u => u.rederiveAir t { u.res.air.get t with stand := on })
    (forEach allAxles (fun k u => u.rederiveElectric k { u.res.electric.get k with stand := on }) s)

/-- A member link that is DOWN or JOINING (R47). -/
def State.lossAmong (s : State) (members : LinkSet) : Bool :=
  allLinks.any fun l => members.has l && decide ((s.links.get l).state ≠ .up)

/-- The condition LINK_LOSS of EA_k is re-examined, if it has `l` among its members (R47). -/
def State.examineElectric (l : LinkId) (k : Axle) (s : State) : State :=
  let e := s.res.electric.get k
  if e.members.has l then s.rederiveElectric k { e with linkLoss := s.lossAmong e.members } else s

/-- The condition LINK_LOSS of AT_t is re-examined, if it has `l` among its members (R47). -/
def State.examineAir (l : LinkId) (t : Truck) (s : State) : State :=
  let e := s.res.air.get t
  if e.members.has l then s.rederiveAir t { e with linkLoss := s.lossAmong e.members } else s

/-- The condition LINK_LOSS is re-examined for every entry that has `l` among its members (R47). -/
def State.refreshLinkLoss (s : State) (l : LinkId) : State :=
  forEach allTrucks (State.examineAir l) (forEach allAxles (State.examineElectric l) s)

/-- Axle `k` is in slide state LOCKOUT. -/
def State.lockedOut (s : State) (k : Axle) : Bool := decide ((s.slide.axles.get k).state = .lockout)

/-- Some axle of truck `t` is in LOCKOUT (R48). -/
def State.truckLockedOut (s : State) (t : Truck) : Bool := (axlesOf t).any s.lockedOut

/-- BRK_FAULT should be asserted: the P-link or the A-link is not UP, or LOCKOUT holds for an electric
resource (R36). -/
def State.brakeFaulty (s : State) : Bool :=
  decide ((s.links.get .p).state ≠ .up) || decide ((s.links.get .a).state ≠ .up)
    || allAxles.any fun k => (s.res.electric.get k).lockout

/-- The Demand Unit re-examines the BRK_FAULT line (R36). -/
def State.examineBrake (s : State) : State := s.setBrkFault s.brakeFaulty

/-- The condition LOCKOUT of EA_k and of its truck's air resource is re-examined, and the change on EA_k
reported to the Demand Unit (R48). -/
def State.refreshLockout (s : State) (k : Axle) : State :=
  let s₁ := s.rederiveElectric k { s.res.electric.get k with lockout := s.lockedOut k }
  let t := truckOf k
  (s₁.rederiveAir t { s₁.res.air.get t with lockout := s₁.truckLockedOut t }).examineBrake

/-! Written fields -/

/-- The value of a written field may be `v`, for an electric entry (Table 3-2, R53 check 4). -/
def electricFieldOk (e : Entry) (f : Field) (v : Nat) : Bool :=
  match f with
  | .members => decide (v ≤ 7)
  | .ceiling => decide (e.floor ≤ v) && decide (v ≤ 1000)
  | .floor => decide (v ≤ e.ceiling)
  | .riseStep => decide (v ≤ 1000)
  | .remapStand => decide (v ≤ 3)
  | .remapLinkLoss => decide (1 ≤ v) && decide (v ≤ 3)
  | .remapLockout => decide (v ≤ 3)
  | .policy => decide (v ≤ 1)

/-- The value of a written field may be `v`, for an air entry under P_SERVICE_MAX (Table 3-2, R53). -/
def airFieldOk (pServiceMax : Nat) (e : Entry) (f : Field) (v : Nat) : Bool :=
  match f with
  | .members => decide (v ≤ 7)
  | .ceiling => decide (e.floor ≤ v) && decide (v ≤ pServiceMax)
  | .floor => decide (v ≤ e.ceiling)
  | .riseStep => decide (v ≤ 500)
  | .remapStand => decide (v ≤ 3)
  | .remapLinkLoss => decide (1 ≤ v) && decide (v ≤ 3)
  | .remapLockout => decide (v ≤ 3)
  | .policy => decide (v ≤ 1)

/-- An entry with one written field replaced by a value in its range (R54). -/
def Entry.write (e : Entry) (f : Field) (v : Nat) : Entry :=
  match f with
  | .members => { e with members := .ofCode v }
  | .ceiling => { e with ceiling := v }
  | .floor => { e with floor := v }
  | .riseStep => { e with riseStep := v }
  | .remapStand => { e with remapStand := (resStateOf v).getD e.remapStand }
  | .remapLinkLoss => { e with remapLinkLoss := (resStateOf v).getD e.remapLinkLoss }
  | .remapLockout => { e with remapLockout := (resStateOf v).getD e.remapLockout }
  | .policy => { e with policy := if v = 1 then .reset else .keep }

/-- An accepted write of a field of EA_k: the field, the re-derivation it calls for (R47, R49) and the
reductions of R50 and R51. A write of the value already held changes nothing (R54). -/
def State.writeElectric (s : State) (k : Axle) (f : Field) (v : Nat) : State :=
  let e := (s.res.electric.get k).write f v
  if e = s.res.electric.get k then s else
  match f with
  | .members => s.rederiveElectric k { e with linkLoss := s.lossAmong e.members }
  | .remapStand | .remapLinkLoss | .remapLockout => s.rederiveElectric k e
  | .ceiling =>
    let s₁ := s.setElectric k e
    if v < s.command k then s₁.reduceAxle k v .ceiling else s₁
  | .floor =>
    let s₁ := s.setElectric k e
    if e.state = .floor ∧ v < s.command k then s₁.reduceAxle k v .state else s₁
  | .riseStep | .policy => s.setElectric k e

/-- An accepted write of a field of AT_t (R47, R49 to R51). -/
def State.writeAir (s : State) (t : Truck) (f : Field) (v : Nat) : State :=
  let e := (s.res.air.get t).write f v
  if e = s.res.air.get t then s else
  match f with
  | .members => s.rederiveAir t { e with linkLoss := s.lossAmong e.members }
  | .remapStand | .remapLinkLoss | .remapLockout => s.rederiveAir t e
  | .ceiling =>
    let s₁ := s.setAir t e
    if s₁.airBound t < s.pressure t then s₁.reduceTruckByTable t (s₁.airBound t) else s₁
  | .floor | .riseStep | .policy => s.setAir t e

/-- The thirteen words of READ_RES from an entry and its actuator's figures (R56). -/
def entryWords (e : Entry) (target command : Nat) (ramping : Bool) : Words :=
  dataOf [e.members.code, e.ceiling, e.floor, e.riseStep, resStateCode e.remapStand,
    resStateCode e.remapLinkLoss, resStateCode e.remapLockout, policyCode e.policy, resStateCode e.state,
    e.conditions, target, command, bit ramping]

/-- The words of READ_RES for a resource (R56). -/
def State.resourceWords (s : State) : Resource → Words
  | .electric k =>
    let x := s.blend.record.axles.get k
    entryWords (s.res.electric.get k) x.target x.command x.ramping
  | .air t =>
    let x := s.blend.record.trucks.get t
    entryWords (s.res.air.get t) x.target x.command x.ramping

/-! Resets -/

/-- An electric entry's written fields at a warm restart (R57). -/
def Entry.restartElectric (e : Entry) : Entry :=
  match e.policy with
  | .keep => e
  | .reset => { Entry.electricReset with state := e.state }

/-- An air entry's written fields at a warm restart; its default ceiling is the P_SERVICE_MAX in force
(R57). -/
def Entry.restartAir (pServiceMax : Nat) (e : Entry) : Entry :=
  match e.policy with
  | .keep => e
  | .reset => { Entry.airReset with state := e.state, ceiling := pServiceMax }

/-- The conditions of an entry are set and its state derived; no reduction follows (R57). -/
def Entry.settle (e : Entry) (stand linkLoss lockout : Bool) : Entry :=
  let e₁ : Entry := { e with stand := stand, linkLoss := linkLoss, lockout := lockout }
  { e₁ with state := e₁.derive }

end Sys2Proof.Machine
end

