-- ==== Sys2Proof/Machine/Demand.lean ====
section
/-! DEFINITION. The Demand Unit: the blended demand, the holder sets and the operating mode
(Chapter 2). -/

namespace Sys2Proof.Machine

/-- The PEN source (Table 2-1). -/
def State.penSource (s : State) : Nat := if s.penaltyInForce then s.params.penEffort else 0

/-- The EMER source (Table 2-1). -/
def State.emerSource (s : State) : Nat := if s.emergencyInForce then s.params.dMax else 0

/-- The greatest of the four effort sources (R20). -/
def State.blendedDemand (s : State) : Nat :=
  max (max s.demand.db s.demand.auto) (max s.penSource s.emerSource)

/-- D_blend and D_tot are recomputed (R20). -/
def State.recomputeDemand (s : State) : State :=
  s.setDemand { s.demand with dBlend := s.blendedDemand, dTot := min s.blendedDemand s.params.dMax }

/-- The mode that the evaluation of R32 gives. -/
def State.evaluatedMode (s : State) : Mode :=
  if s.demand.maint.p && s.demand.maint.a && s.speed.standstill then .maint
  else if s.speed.standstill &&
      (decide (0 < s.demand.dBlend) || allTrucks.any fun t => decide (0 < s.demand.ind.get t)) then .stand
  else .run

/-- The mode is re-evaluated (R32); entry into STAND and leaving it are handed to the resource table
(R33). -/
def State.evaluateMode (s : State) : State :=
  let m := s.evaluatedMode
  let s₁ := s.setDemand { s.demand with mode := m }
  if m ≠ s.demand.mode ∧ (m = .stand ∨ s.demand.mode = .stand) then s₁.refreshStand else s₁

/-- A source of demand has changed: D_blend and D_tot, then the mode (R20, R32). -/
def State.demandChanged (s : State) : State := s.recomputeDemand.evaluateMode

/-- The state with another penalty holder set. -/
def State.setPenalty (s : State) (x : LinkSet) : State := s.setDemand { s.demand with penalty := x }

/-- The state with another emergency holder set. -/
def State.setEmergency (s : State) (x : LinkSet) : State := s.setDemand { s.demand with emergency := x }

/-- The state with another maintenance request set. -/
def State.setMaint (s : State) (x : LinkSet) : State := s.setDemand { s.demand with maint := x }

/-- The response items of R22 and R26: penalty holder set, emergency holder set, mode. -/
def State.holderWords (s : State) : Words :=
  dataOf [s.demand.penalty.code, s.demand.emergency.code, modeCode s.demand.mode]

/-- PENALTY_SET from link `l` (R22). -/
def State.penaltyAdd (s : State) (l : LinkId) : State :=
  if s.demand.penalty.has l then s
  else if s.penaltyInForce then s.setPenalty (s.demand.penalty.put l true)
  else ((s.setPenalty (s.demand.penalty.put l true)).demandChanged).send .penalty (linkWeight l)

/-- PENALTY_CLEAR from link `l` (R23). -/
def State.penaltyRemove (s : State) (l : LinkId) : State :=
  if s.demand.penalty.has l then
    let s₁ := s.setPenalty (s.demand.penalty.put l false)
    if s₁.penaltyInForce then s₁ else s₁.demandChanged
  else s

/-- An accepted PENALTY_RESET (R24). -/
def State.penaltyEmpty (s : State) : State :=
  if s.penaltyInForce then (s.setPenalty {}).demandChanged else s

/-- EMER_SET from link `l` (R26). -/
def State.emergencyAdd (s : State) (l : LinkId) : State :=
  if s.demand.emergency.has l then s
  else if s.emergencyInForce then s.setEmergency (s.demand.emergency.put l true)
  else ((s.setEmergency (s.demand.emergency.put l true)).demandChanged).send .emergency (linkWeight l)

/-- The reduction to truck `t`'s air bound at the end of an emergency; the first of the two to arrive
clears the record's emergency flag, with one increment of the revision for the cut or, without a cut, for
the clearing (R80). -/
def State.emergencyEndCut (s : State) (t : Truck) : State :=
  let r := s.blend.record.reduceTruck t (s.airBound t)
  if s.blend.record.emergency then
    let cut := decide (s.airBound t < (s.blend.record.trucks.get t).target)
    s.setRecord { (if cut then r else r.bump) with emergency := false }
  else s.setRecord r

/-- An accepted EMER_CLEAR from link `l` (R28, R80). The demand's own consequences and the two
reductions reach the record in an order left open (R81; log 5). -/
def State.emergencyRemove (s : State) (l : LinkId) : State :=
  if s.demand.emergency.has l then
    let s₁ := s.setEmergency (s.demand.emergency.put l false)
    if s₁.emergencyInForce then s₁
    else inAnyOrder [State.demandChanged, (·.emergencyEndCut .t1), (·.emergencyEndCut .t2)] s₁
  else s

/-- A valid MODE_REQ from link `l` (R30). -/
def State.maintAsk (s : State) (l : LinkId) (on : Bool) : State :=
  if s.demand.maint.has l = on then s else (s.setMaint (s.demand.maint.put l on)).evaluateMode

/-- The Demand Unit's part of the loss of link `l` (R31, R178 step 3). The M-link has no entry and no
bearing on BRK_FAULT (R36). -/
def State.demandLinkLost (s : State) (l : LinkId) : State :=
  let s₁ := (s.setMaint (s.demand.maint.put l false)).evaluateMode
  match l with
  | .m => s₁
  | .p | .a => s₁.examineBrake

end Sys2Proof.Machine
end

