-- ==== Sys2Proof/Machine/Posted.lean ====
section
/-! DEFINITION. The Posted Value Table: classification of posts, substituted values, ages, and what it
hands on (Chapter 1). -/

namespace Sys2Proof.Machine

/-! Items -/

/-- The upper bound of an item's range (Table 1-1); the lower bound is 0. -/
def itemMax (p : Params) : Item → Nat
  | .db | .auto => 6000
  | .ind _ => p.pServiceMax
  | .av _ | .ae _ => 1000
  | .ap _ => 500
  | .gs => 16000

/-- The link that owns an item (Table 1-1). -/
def itemOwner : Item → LinkId
  | .db | .av _ | .ae _ | .gs => .p
  | .auto | .ind _ | .ap _ => .a

/-- The items that link `l` owns (R8). -/
def ownedItems (l : LinkId) : List Item := allItems.filter fun i => decide (itemOwner i = l)

/-- A posted number lies outside 0..`top` (R4). -/
def outOfRange (top : Nat) (n : Int) : Bool := decide (n < 0) || decide ((top : Int) < n)

/-- A posted number after saturation to 0..`top` (R4). -/
def saturate (top : Nat) (n : Int) : Nat := min n.toNat top

/-- An item after a post without the fault marker (R3, R4). -/
def PostedItem.take (x : PostedItem) (now : Stamp) (p : Params) (top : Nat) (n : Int) : PostedItem :=
  { x with
    cls := if outOfRange top n then .clamped else .valid
    last := some (saturate top n)
    postTime := now
    good := some ⟨saturate top n, now⟩
    fresh := some ⟨now, p.tFresh⟩
    hold := some ⟨now, p.tHold⟩
    goodHold := some ⟨now, p.tHold⟩ }

/-- An item after a post with the fault marker (R5). -/
def PostedItem.takeMarked (x : PostedItem) (now : Stamp) (p : Params) : PostedItem :=
  { x with cls := .fault, postTime := now, hold := some ⟨now, p.tHold⟩, fresh := none }

/-! Substituted values (Table 1-4) -/

/-- The last value as a number. -/
def PostedItem.lastValue (x : PostedItem) : Nat := x.last.getD 0

/-- The substituted value of a demand or independent floor item (R10). -/
def PostedItem.demandValue (x : PostedItem) : Nat :=
  match x.cls with
  | .valid | .clamped | .stale => x.lastValue
  | .fault =>
    match x.goodHold, x.good with
    | some _, some g => g.value
    | _, _ => 0
  | .absent => 0

/-- The substituted value of an availability or achieved electric effort (R10). -/
def PostedItem.effortValue (x : PostedItem) : Nat :=
  match x.cls with
  | .valid | .clamped | .stale => x.lastValue
  | .fault | .absent => 0

/-- The substituted value of an achieved pressure; `none` where it is not used (R10). -/
def PostedItem.pressureValue (x : PostedItem) : Option Nat :=
  match x.cls with
  | .valid | .clamped | .stale => some x.lastValue
  | .fault | .absent => none

/-- The substituted ground speed; `none` where it is not usable as V_ref (R10). -/
def PostedItem.groundValue (x : PostedItem) : Option Nat :=
  match x.cls with
  | .valid | .clamped => some x.lastValue
  | .stale | .fault | .absent => none

/-- The substituted availability A'_k of axle `k`. -/
def Posted.availability (v : Posted) (k : Axle) : Nat := (v.av.get k).effortValue

/-- The substituted achieved electric effort of axle `k`. -/
def Posted.achieved (v : Posted) (k : Axle) : Nat := (v.ae.get k).effortValue

/-- The substituted independent floor of truck `t`. -/
def Posted.indepFloor (v : Posted) (t : Truck) : Nat := (v.ind.get t).demandValue

/-- The more severe of two classes (R11). -/
def worse (x y : Cls) : Cls := if clsCode x < clsCode y then y else x

/-- The worst class of a list of items (R11). -/
def worstOf (xs : List PostedItem) : Cls := xs.foldl (fun c x => worse c x.cls) .valid

/-- The worst class of each family (R11). -/
def Posted.worst (v : Posted) : Worst :=
  { demand := worstOf [v.db, v.auto]
    indep := worstOf (allTrucks.map v.ind.get)
    avail := worstOf (allAxles.map v.av.get)
    achieved := worstOf (allAxles.map v.ae.get)
    pressure := worstOf (allTrucks.map v.ap.get)
    ground := v.gs.cls }

/-! What the table hands on (R12) -/

/-- The four substituted figures the Demand Unit copies (R19). -/
def Posted.demandFigures (v : Posted) : Nat × Nat × PerTruck Nat :=
  (v.db.demandValue, v.auto.demandValue, .ofFn v.indepFloor)

/-- The Demand Unit takes the changed figures in one inform (R19). -/
def State.informDemand (s : State) : State :=
  (s.setDemand
    { s.demand with
      db := s.posted.db.demandValue
      auto := s.posted.auto.demandValue
      ind := .ofFn s.posted.indepFloor }).demandChanged

/-- After the table changed from `old`: a reduction for each axle whose substituted availability fell, and
one inform of the Demand Unit when any of its figures changed (R12). -/
def State.handPosted (s : State) (old : Posted) : State :=
  let s₁ := forEach allAxles
    (fun k u =>
      if s.posted.availability k < old.availability k then
        u.reduceAxle k (s.posted.availability k) .avail
      else u) s
  if s.posted.demandFigures = old.demandFigures then s₁ else s₁.informDemand

/-! Posting (R1 to R5, R15) -/

/-- What one delivered item gives: its entry, whether it was saturated (event 19), and whether it is an
occurrence of INPUT_CLAMPED or of INPUT_FAULT. -/
structure Delivery where
  item : Item
  entry : PostedItem
  saturated : Bool
  clampedNow : Bool
  faultNow : Bool
  deriving DecidableEq, Repr

/-- One item of a posting request classified by itself (R3 to R5). -/
def deliver (s : State) (i : Item) (n : Int) (marker : Bool) : Delivery :=
  let x := s.posted.get i
  if marker then
    ⟨i, x.takeMarked s.now s.params, false, false, decide (x.cls ≠ .fault)⟩
  else
    let out := outOfRange (itemMax s.params i) n
    ⟨i, x.take s.now s.params (itemMax s.params i) n, out, out && decide (x.cls ≠ .clamped), false⟩

/-- The deliveries of a request's items, in item order (R1). -/
def deliveries (s : State) (r : Req) (items : List Item) : List Delivery :=
  items.mapIdx fun n i => deliver s i (postedNumber r n) (faultMarker r n)

/-- The table with the deliveries in place. -/
def Posted.receive (v : Posted) (ds : List Delivery) : Posted :=
  ds.foldl (fun w d => w.set d.item d.entry) v

/-- The occurrences of one kind that a request gives count as one, whose detail is the lowest-numbered
item (R15). -/
def State.occurFirst (s : State) (kind : ExcKind) (ds : List Delivery) : State :=
  match ds with
  | [] => s
  | d :: _ => s.occur kind (itemCode d.item)

/-- A posting request delivers the items of its family (R1 to R5, R12, R15). -/
def State.post (s : State) (r : Req) (items : List Item) : State :=
  let ds := deliveries s r items
  let s₁ := s.setPosted (s.posted.receive ds)
  let s₂ := s₁.countMany 19 (ds.filter Delivery.saturated).length
  let s₃ := s₂.occurFirst .clamped (ds.filter Delivery.clampedNow)
  let s₄ := s₃.occurFirst .fault (ds.filter Delivery.faultNow)
  s₄.handPosted s.posted

/-- The response words of a posting: the class given to each item (R1). -/
def State.classWords (s : State) (items : List Item) : Words :=
  dataOf (items.map fun i => clsCode (s.posted.get i).cls)

/-! Ages (R6 to R8) -/

/-- Whether a fresh expiry finds a VALID or CLAMPED item (R6). -/
def PostedItem.mayStale (x : PostedItem) : Bool :=
  x.fresh.isSome && (decide (x.cls = .valid) || decide (x.cls = .clamped))

/-- The fresh expiry of an item (R6). -/
def State.freshExpiry (s : State) (i : Item) : State :=
  let x := s.posted.get i
  if x.mayStale then
    (s.setPosted (s.posted.set i { x with cls := .stale, fresh := none })).occur .stale (itemCode i)
  else s

/-- Whether a hold expiry finds a STALE or FAULT item (R7; on another it has no effect, log 30). -/
def PostedItem.mayAbsent (x : PostedItem) : Bool :=
  x.hold.isSome && (decide (x.cls = .stale) || decide (x.cls = .fault))

/-- The hold expiry of an item (R7, R12). -/
def State.holdExpiry (s : State) (i : Item) : State :=
  if (s.posted.get i).mayAbsent then
    (s.setPosted (s.posted.set i (s.posted.get i).cleared)).handPosted s.posted
  else s

/-- Whether a good-hold expiry finds an item on which it has an effect: on a VALID or CLAMPED one it has
none, and the model leaves the timer as it is (R7, log 30). -/
def PostedItem.mayUnback (x : PostedItem) : Bool :=
  x.goodHold.isSome && decide (x.cls ≠ .valid) && decide (x.cls ≠ .clamped)

/-- The good-hold expiry of an item: the good value no longer backs a FAULT item (R7, R12; log 30). -/
def State.goodHoldExpiry (s : State) (i : Item) : State :=
  if (s.posted.get i).mayUnback then
    (s.setPosted (s.posted.set i { s.posted.get i with goodHold := none })).handPosted s.posted
  else s

/-- The table with every item of link `l` ABSENT (R8). -/
def Posted.dropOwned (v : Posted) (l : LinkId) : Posted :=
  (ownedItems l).foldl (fun w i => w.set i (w.get i).cleared) v

/-- The Posted Value Table's part of the loss of link `l` (R8, R12, R178 step 2). -/
def State.postedLinkLost (s : State) (l : LinkId) : State :=
  (s.setPosted (s.posted.dropOwned l)).handPosted s.posted

/-- The items in the posting order of each posting request (R1). -/
def availItems : List Item := allAxles.map .av

/-- See `availItems`. -/
def achievedItems : List Item := allAxles.map .ae

/-- See `availItems`. -/
def indItems : List Item := allTrucks.map .ind

/-- See `availItems`. -/
def pressureItems : List Item := allTrucks.map .ap

/-! Writes of T_FRESH and T_HOLD (R9) -/

/-- Every item with its fresh timer placed for the new run. -/
def Posted.rerunFresh (v : Posted) (run : Nat) : Posted :=
  allItems.foldl (fun w i => w.set i { w.get i with fresh := rerun (w.get i).fresh run }) v

/-- Every item with its hold and good-hold timers placed for the new run. -/
def Posted.rerunHold (v : Posted) (run : Nat) : Posted :=
  allItems.foldl
    (fun w i =>
      w.set i { w.get i with hold := rerun (w.get i).hold run, goodHold := rerun (w.get i).goodHold run }) v

/-- An accepted write of T_FRESH acts on running fresh timers, and those already past expire at once, in
an order left open (R9; log 5). -/
def State.applyTFresh (s : State) (run : Nat) : State :=
  let s₁ := s.setPosted (s.posted.rerunFresh run)
  let due := allItems.filter fun i => overNow (s₁.posted.get i).fresh s.now
  inAnyOrder (due.map fun i => (·.freshExpiry i)) s₁

/-- An accepted write of T_HOLD acts on running hold and good-hold timers, and those already past expire
at once, in an order left open (R9; log 5). -/
def State.applyTHold (s : State) (run : Nat) : State :=
  let s₁ := s.setPosted (s.posted.rerunHold run)
  let dueHold := allItems.filter fun i => overNow (s₁.posted.get i).hold s.now
  let dueGood := allItems.filter fun i => overNow (s₁.posted.get i).goodHold s.now
  inAnyOrder ((dueHold.map fun i => (·.holdExpiry i)) ++ dueGood.map fun i => (·.goodHoldExpiry i)) s₁

end Sys2Proof.Machine
end

