-- ==== Sys2Proof/Machine/Speed.lean ====
section
/-! DEFINITION. The Tachometer Front End and the Speed Unit: qualification of samples, edges, axle speeds
and classes, V_ref and the standstill flag (Chapter 5). -/

namespace Sys2Proof.Machine

/-! The Tachometer Front End (R87, R88) -/

/-- What the three samples of a qualification give: the first read the new level. -/
structure Outcome87 where
  accepted : Bool
  noisy : Bool
  deriving DecidableEq, Repr

/-- The outcome at the third sample, from whether the second and the third read the new level
(Table 5-1). -/
def qualify (second third : Bool) : Outcome87 := ⟨second || third, !(second && third)⟩

/-- The noise count rises by 1 and saturates at 255 (R88). -/
def TachInput.addNoise (x : TachInput) : TachInput := { x with noise := if x.noise < 255 then x.noise + 1 else x.noise }

/-- An input after a sample, and the time stamp of a rising edge it accepted (R87, R88). -/
def TachInput.sample (x : TachInput) (us : Stamp) (high : Bool) : TachInput × Option Stamp :=
  match x.sampled, x.qual with
  | false, _ => ({ x with level := high, sampled := true }, none)
  | true, none =>
    if high = x.level then (x, none) else ({ x with qual := some ⟨us, none⟩ }, none)
  | true, some ⟨time, none⟩ => ({ x with qual := some ⟨time, some high⟩ }, none)
  | true, some ⟨time, some second⟩ =>
    let o := qualify (decide (second ≠ x.level)) (decide (high ≠ x.level))
    let x₁ := if o.noisy then x.addNoise else x
    if o.accepted then
      ({ x₁ with level := !x.level, qual := none }, if x.level then none else some time)
    else ({ x₁ with qual := none }, none)

/-- The state with one axle of the Speed Unit replaced. -/
def State.setSpeedAxle (s : State) (k : Axle) (x : SpeedAxle) : State :=
  s.setSpeed { s.speed with axles := s.speed.axles.set k x }

/-- The edge history with a stamp appended; the oldest of three is dropped (R89). -/
def appendEdge (h : List Stamp) (t : Stamp) : List Stamp := (h ++ [t]).drop (h.length + 1 - 2)

/-- An axle at the handover of a rising edge (R89). -/
def SpeedAxle.edge (x : SpeedAxle) (t : Stamp) (zero : Option Timer) : SpeedAxle :=
  let h := appendEdge x.history t
  { x with
    edges := x.edges + 1
    firstEdge := if x.edges = 0 then t else x.firstEdge
    lastEdge := t
    history := h
    zero := zero
    openMark := x.openMark && decide (h.length ≠ 2) }

/-- The Speed Unit takes a rising edge of axle `k` (R89). -/
def State.handEdge (s : State) (k : Axle) (t : Stamp) : State :=
  s.setSpeedAxle k ((s.speed.axles.get k).edge t (s.startTimer s.params.zeroTime))

/-- A sample of a tachometer input while sampling runs (R87, R88). -/
def State.tachSample (s : State) (k : Axle) (high : Bool) : State :=
  let o := (s.tach.get k).sample s.clock.us high
  let s₁ := s.setTach (s.tach.set k o.1)
  match o.2 with
  | some t => s₁.handEdge k t
  | none => s₁

/-! Speeds (R91, R92, R94) -/

/-- floor(distance / (TEETH × span)); over a span of 0 a free value (R91, log 19). -/
def speedOver (distance teeth span : Nat) : Nat :=
  if span = 0 then Config.zeroSpanSpeed distance else distance / (teeth * span)

/-- The pair speed of case 3 (Table 5-3). -/
def pairSpeed (circ teeth : Nat) (t₀ t₁ : Stamp) : Nat := speedOver (circ * 360000) teeth (elapsed t₁ t₀)

/-- The silence bound of case 3; a D of 0 is taken as 1 (Table 5-3). -/
def silenceBound (circ teeth : Nat) (us t₁ : Stamp) : Nat :=
  circ * 360000 / (teeth * max 1 (elapsed us t₁))

/-- The case of Table 5-3 that applies. -/
inductive SpeedCase where
  | openTach | normal | few | zero | unknown
  deriving DecidableEq, Repr

/-- What a window expiry forms before R92: the case and the speed (Table 5-3). -/
structure Formed where
  case : SpeedCase
  speed : Nat
  deriving DecidableEq, Repr

/-- The speed at a window expiry from the first case of Table 5-3 that applies (R91). -/
def SpeedAxle.form (x : SpeedAxle) (circ teeth : Nat) (us : Stamp) : Formed :=
  if x.openMark then ⟨.openTach, 0⟩
  else if 2 ≤ x.edges then
    ⟨.normal, speedOver ((x.edges - 1) * circ * 360000) teeth (elapsed x.lastEdge x.firstEdge)⟩
  else
    match x.history with
    | [t₀, t₁] => ⟨.few, min (pairSpeed circ teeth t₀ t₁) (silenceBound circ teeth us t₁)⟩
    | _ => if x.zeroDeclared then ⟨.zero, 0⟩ else ⟨.unknown, 0⟩

/-- The class a case gives before R92 (Table 5-3). -/
def SpeedCase.cls : SpeedCase → Cls
  | .openTach => .fault
  | .normal | .few | .zero => .valid
  | .unknown => .absent

/-- The class of a window's speed (R92). -/
def settledCls (f : Formed) (noise limit : Nat) : Cls :=
  if limit < noise then .fault
  else if f.case.cls = .valid ∧ 16000 < f.speed then .clamped
  else f.case.cls

/-- The speed of a window whose class is settled: saturated to 16000 where that made it CLAMPED; a noise
FAULT keeps the speed that the case formed (R92; log 33). -/
def settledSpeed (f : Formed) (c : Cls) : Nat := if c = .clamped then 16000 else f.speed

/-- Saturation to -32768..32767 (R94). -/
def saturate16 (n : Int) : Int := max (-32768) (min 32767 n)

/-- The deceleration of a window (R94); over a span of 0 µs a free value (log 19). -/
def SpeedAxle.decelOf (x : SpeedAxle) (v : Nat) (c : Cls) (us : Stamp) : Int :=
  match x.prevTime with
  | some t =>
    if c = .valid ∧ x.prevCls = .valid then
      let span := elapsed us t
      let diff := (x.prevSpeed : Int) - v
      if span = 0 then saturate16 (Config.zeroSpanDecel diff)
      else saturate16 (diff * 1000000 / span)
    else 0
  | none => 0

/-- The axle after steps 1 to 5 of its window expiry (R95). -/
def SpeedAxle.expire (x : SpeedAxle) (v : Nat) (c : Cls) (us : Stamp) (window : Option Timer) : SpeedAxle :=
  { x with
    window := window
    speed := v
    cls := c
    decel := x.decelOf v c us
    prevTime := some us
    prevSpeed := v
    prevCls := c
    edges := 0 }

/-- Steps 1 to 5 of a window expiry of axle `k` (R95): the case formed and the state, with the TACH_FAULT
of an entry into FAULT (R92). -/
def State.windowSpeed (s : State) (k : Axle) : SpeedCase × State :=
  let x := s.speed.axles.get k
  let noise := (s.tach.get k).noise
  let f := x.form (s.params.circ.get k) s.params.teeth s.clock.us
  let c := settledCls f noise s.params.noiseLimit
  let v := settledSpeed f c
  let s₁ := s.setTach (s.tach.set k { s.tach.get k with noise := 0 })
  let s₂ := s₁.setSpeedAxle k (x.expire v c s.clock.us (s.startTimer s.params.window))
  (f.case, if c = .fault ∧ x.cls ≠ .fault then s₂.occur .tach (axleNo k) else s₂)

/-! V_ref (R96 to R98) -/

/-- Axle `k` is a reference candidate: VALID, and NORMAL or RECOVERING (R97). -/
def State.isCandidate (s : State) (k : Axle) : Bool :=
  decide ((s.speed.axles.get k).cls = .valid) &&
    (decide ((s.slide.axles.get k).state = .normal) || decide ((s.slide.axles.get k).state = .recovering))

/-- The candidate: the greatest speed among the candidate axles (R97). -/
def State.candidate (s : State) : Option Nat :=
  (allAxles.filter s.isCandidate).foldl
    (fun m k =>
      match m with
      | none => some (s.speed.axles.get k).speed
      | some v => some (max v (s.speed.axles.get k).speed)) none

/-- V_ref formed from the axles within its decay and rise bounds (R97). -/
def boundedVref (old decay rise : Nat) (candidate : Option Nat) : Nat :=
  match candidate with
  | some c => min (min (old + rise) (max c (old - decay))) 16000
  | none => min (old - decay) 16000

/-- The update of V_ref at a window expiry (R96 to R98). -/
def State.updateVref (s : State) : State :=
  let sp := s.speed
  match s.posted.gs.groundValue with
  | some g => s.setSpeed { sp with vref := g, firstUpdate := false, vrefTime := s.now }
  | none =>
    if sp.firstUpdate then
      s.setSpeed { sp with vref := s.candidate.getD 0, firstUpdate := s.candidate.isNone, vrefTime := s.now }
    else
      let dt := elapsed s.now sp.vrefTime
      s.setSpeed
        { sp with
          vref := boundedVref sp.vref (s.params.decay * dt / 1000) (s.params.rise * dt / 1000) s.candidate
          vrefTime := s.now }

/-! Open tachometer (R93) -/

/-- The open-tach timer is governed at a window expiry of axle `k` against the new V_ref (R93). -/
def State.governOpen (s : State) (k : Axle) (c : SpeedCase) : State :=
  let x := s.speed.axles.get k
  if (c = .few ∨ c = .zero) ∧ x.speed = 0 ∧ s.params.openSpeed ≤ s.speed.vref ∧ x.openMark = false then
    match x.openTimer with
    | some _ => s
    | none => s.setSpeedAxle k { x with openTimer := s.startTimer s.params.openTime }
  else s.setSpeedAxle k { x with openTimer := none }

/-- The expiry of axle `k`'s open-tach timer (R93). -/
def State.openTachExpiry (s : State) (k : Axle) : State :=
  let x := s.speed.axles.get k
  match x.openTimer with
  | none => s
  | some _ =>
    let s₁ := s.setSpeedAxle k
      { x with openTimer := none, openMark := true, history := [], speed := 0, cls := .fault }
    if x.cls = .fault then s₁ else s₁.occur .tach (axleNo k)

/-- The expiry of axle `k`'s zero timer (R90). -/
def State.zeroExpiry (s : State) (k : Axle) : State :=
  let x := s.speed.axles.get k
  match x.zero with
  | none => s
  | some _ => s.setSpeedAxle k { x with zero := none, history := [], zeroDeclared := true }

/-! Standstill (R99, R100) -/

/-- Axle `k`'s speed is VALID. -/
def State.validAxle (s : State) (k : Axle) : Bool := decide ((s.speed.axles.get k).cls = .valid)

/-- Axle `k`'s speed is VALID and above 0. -/
def State.turning (s : State) (k : Axle) : Bool := s.validAxle k && decide (0 < (s.speed.axles.get k).speed)

/-- The rest condition (R99). -/
def State.atRest (s : State) : Bool :=
  decide (2 ≤ (allAxles.filter s.validAxle).length) && !(allAxles.any s.turning) && decide (s.speed.vref = 0)

/-- The standstill timer and flag are governed at a window expiry (R99, R100). -/
def State.governStill (s : State) : State :=
  if s.atRest then
    if s.speed.standstill || s.speed.still.isSome then s
    else s.setSpeed { s.speed with still := s.startTimer s.params.stillTime }
  else
    let s₁ := s.setSpeed { s.speed with still := none }
    if s.speed.standstill && allAxles.any s.turning then
      (s₁.setSpeed { s₁.speed with standstill := false }).evaluateMode
    else s₁

/-- The expiry of the standstill timer (R99). -/
def State.stillExpiry (s : State) : State :=
  match s.speed.still with
  | none => s
  | some _ => (s.setSpeed { s.speed with standstill := true, still := none }).evaluateMode

/-! Writes of ZERO_TIME, OPEN_TIME and STILL_TIME (R103) -/

/-- An accepted write of ZERO_TIME (R103; log 5). -/
def State.applyZeroTime (s : State) (run : Nat) : State :=
  let s₁ := forEach allAxles
    (fun k u =>
      let x := u.speed.axles.get k
      u.setSpeedAxle k { x with zero := rerun x.zero run }) s
  let due := allAxles.filter fun k => overNow (s₁.speed.axles.get k).zero s.now
  inAnyOrder (due.map fun k => (·.zeroExpiry k)) s₁

/-- An accepted write of OPEN_TIME (R103; log 5). -/
def State.applyOpenTime (s : State) (run : Nat) : State :=
  let s₁ := forEach allAxles
    (fun k u =>
      let x := u.speed.axles.get k
      u.setSpeedAxle k { x with openTimer := rerun x.openTimer run }) s
  let due := allAxles.filter fun k => overNow (s₁.speed.axles.get k).openTimer s.now
  inAnyOrder (due.map fun k => (·.openTachExpiry k)) s₁

/-- An accepted write of STILL_TIME (R103). -/
def State.applyStillTime (s : State) (run : Nat) : State :=
  let s₁ := s.setSpeed { s.speed with still := rerun s.speed.still run }
  if overNow s₁.speed.still s.now then s₁.stillExpiry else s₁

end Sys2Proof.Machine
end

