-- ==== Sys2Proof/Machine/Slide.lean ====
section
/-! DEFINITION. The Slide Unit: comparison, transitions, adhesion limits, lockout, truck actions and the
dump lines (Chapter 6). -/

namespace Sys2Proof.Machine

/-- The state with one axle of the Slide Unit replaced. -/
def State.setSlideAxle (s : State) (k : Axle) (x : SlideAxle) : State :=
  s.setSlide { s.slide with axles := s.slide.axles.set k x }

/-- The state with one truck of the Slide Unit replaced. -/
def State.setSlideTruck (s : State) (t : Truck) (x : SlideTruck) : State :=
  s.setSlide { s.slide with trucks := s.slide.trucks.set t x }

/-! Comparison and transitions (R107 to R113) -/

/-- The creep of an axle (R107). -/
def creepOf (vref v : Nat) : Nat := if v < vref then 1000 * (vref - v) / vref else 0

/-- The comparison of an axle (R107). -/
def comparisonOf (cls : Cls) (v vref vMin : Nat) (standstill : Bool) : Comparison :=
  if cls ≠ .valid then .unordered
  else if vref < vMin ∨ standstill = true then .inhibited
  else .creep (creepOf vref v)

/-- What Table 6-2 makes of an evaluation. -/
inductive Verdict where
  /-- The state stays, and L_k becomes `limit`. -/
  | stay (limit : Nat)
  /-- RECOVERING goes on; `restart`: its count begins again (R112). -/
  | recover (restart : Bool)
  /-- The axle goes to another state, and L_k becomes `limit`. -/
  | go (dest : SlideState) (limit : Nat)
  /-- A slide onset (R115). -/
  | onset
  /-- LOCKOUT by SLIDE_MAX (R111). -/
  | lock
  deriving DecidableEq, Repr

/-- What an UNORDERED comparison does in a state that it can leave (R108). -/
def unorderedVerdict (cls : Cls) (limit : Nat) : Verdict :=
  if cls = .fault ∨ cls = .clamped then .go .indeterminate limit else .stay limit

/-- The first test of Table 6-2 that holds, for the axle's present state. `timer` is the time since the
state entry time, `recTimer` since the recover start time, `command` the axle's present command. -/
def verdictOf (p : Params) (x : SlideAxle) (c : Comparison) (cls : Cls) (decel : Int)
    (timer recTimer command : Nat) : Verdict :=
  match x.state with
  | .normal =>
    match c with
    | .unordered => unorderedVerdict cls x.limit
    | .inhibited => .stay 1000
    | .creep s => if p.sSuspect ≤ s ∨ (p.aDet : Int) ≤ decel then .go .suspect command else .stay x.limit
  | .suspect =>
    match c with
    | .unordered => unorderedVerdict cls x.limit
    | .inhibited => .go .normal 1000
    | .creep s =>
      if p.sSlide ≤ s then .onset
      else if p.suspectMax ≤ timer ∧ p.sSuspect ≤ s then .onset
      else if s < p.sRelease ∧ decel < p.aDet then .go .normal 1000
      else .stay x.limit
  | .sliding =>
    match c with
    | .unordered => unorderedVerdict cls x.limit
    | .inhibited => .go .normal 1000
    | .creep s =>
      if s < p.sRelease then .go .recovering x.limit
      else if p.slideMax ≤ timer then .lock
      else .stay x.limit
  | .recovering =>
    match c with
    | .unordered => unorderedVerdict cls x.limit
    | .inhibited => .go .normal 1000
    | .creep s =>
      if p.sSlide ≤ s then .onset
      else if s < p.sRelease ∧ p.recoverTime ≤ recTimer then .go .normal 1000
      else .recover (decide (p.sRelease ≤ s))
  | .indeterminate =>
    match c with
    | .unordered => .stay x.limit
    | .inhibited => .go .normal 1000
    | .creep s => if p.sSuspect ≤ s then .go .suspect command else .go .normal 1000
  | .lockout => .stay 0

/-- The onset history without the entries more than LOCK_WINDOW seconds old, removed from the oldest end
(R116). -/
def pruned (now : Stamp) (lockWindow : Nat) : List Stamp → List Stamp
  | [] => []
  | t :: ts => if lockWindow * 1000 < elapsed now t then pruned now lockWindow ts else t :: ts

/-- What an evaluation of one axle makes: the axle, whether a slide onset took place, and whether it
entered LOCKOUT. -/
structure Judged where
  axle : SlideAxle
  onset : Bool
  locked : Bool
  deriving DecidableEq, Repr

/-- The axle in a state entered now (R114). -/
def SlideAxle.enter (x : SlideAxle) (now : Stamp) (dest : SlideState) (limit : Nat) : SlideAxle :=
  { x with
    state := dest, limit := limit, entryTime := now
    recoverStart := if dest = .recovering then now else x.recoverStart }

/-- The limit raised by one evaluation in RECOVERING (R112). -/
def raisedLimit (limit rate dt : Nat) : Nat := min 1000 (limit + rate * dt / 100)

/-- A slide onset: the history grows, and the axle enters SLIDING with its limit cut, or LOCKOUT when the
list is full (R115). -/
def SlideAxle.onset (x : SlideAxle) (now : Stamp) (p : Params) (command : Nat) : Judged :=
  let h := x.history ++ [now]
  let x₁ : SlideAxle := { x with history := h }
  if p.lockCount ≤ h.length then ⟨x₁.enter now .lockout 0, true, true⟩
  else ⟨x₁.enter now .sliding (command * p.cutFactor / 1000), true, false⟩

/-- Steps 1 to 5 of an evaluation on the axle's own fields (R106). -/
def SlideAxle.judge (x : SlideAxle) (now : Stamp) (p : Params) (c : Comparison) (cls : Cls) (decel : Int)
    (command : Nat) : Judged :=
  let x₁ : SlideAxle :=
    { x with history := pruned now p.lockWindow x.history, comparison := some c, lastEval := some now }
  match verdictOf p x c cls decel (elapsed now x.entryTime) (elapsed now x.recoverStart) command with
  | .stay limit => ⟨{ x₁ with limit := limit }, false, false⟩
  | .recover restart =>
    let dt := match x.lastEval with
      | some t => elapsed now t
      | none => 0
    ⟨{ x₁ with
        limit := raisedLimit x.limit p.recoverRate dt
        recoverStart := if restart then now else x.recoverStart }, false, false⟩
  | .go dest limit => ⟨x₁.enter now dest limit, false, false⟩
  | .onset => x₁.onset now p command
  | .lock => ⟨x₁.enter now .lockout 0, false, true⟩

/-! Truck actions (R120 to R123) -/

/-- The slide state of an axle. -/
def State.slideState (s : State) (k : Axle) : SlideState := (s.slide.axles.get k).state

/-- The action that the slide states and the dump-exhausted mark give (R120). -/
def State.derivedAction (s : State) (t : Truck) : Action :=
  let sliding := (axlesOf t).any fun k => decide (s.slideState k = .sliding)
  let lesser := (axlesOf t).any fun k =>
    decide (s.slideState k = .suspect) || decide (s.slideState k = .recovering)
  if sliding && !(s.slide.trucks.get t).exhausted then .dump
  else if lesser || sliding then .keep
  else .none

/-- The truck on leaving DUMP: the timer stops with the time it has accumulated. Where its expiry was due but
not taken, it stops short of DUMP_MAX, at the last whole millisecond before it (R122, R123; log 22). -/
def SlideTruck.leaveDump (x : SlideTruck) (now : Stamp) : SlideTruck :=
  match x.dumpRun with
  | some r => { x with dumpRun := none, dumpAcc := min (r.limit - 1) (x.dumpAcc + elapsed now r.since) }
  | none => x

/-- The truck on entering an action; `pressure` is its pressure command at the event (R121 to R123). -/
def SlideTruck.enter (x : SlideTruck) (now : Stamp) (dumpMax pressure : Nat) (a : Action) : SlideTruck :=
  match a with
  | .none => { x with action := .none, dumpAcc := 0, exhausted := false }
  | .keep => { x with action := .keep, held := pressure }
  | .dump => { x with action := .dump, dumpRun := some ⟨now, dumpMax⟩ }

/-- The truck's action is re-derived; a change leaves the old action and enters the new one, with the dump
line and event 9 (R120 to R123). The reduction of an entry is `actionCut`. -/
def State.rederiveAction (s : State) (t : Truck) : State :=
  let a := s.derivedAction t
  let x := s.slide.trucks.get t
  if a = x.action then s
  else
    let x₁ := if x.action = .dump then x.leaveDump s.now else x
    let s₁ := s.setSlideTruck t (x₁.enter s.now s.params.dumpMax (s.pressure t) a)
    let s₂ := s₁.setDump (s₁.dump.set t (decide (a = .dump)))
    if a = .dump then s₂.count 9 else s₂

/-- The reduction that a truck's entry from action `old` into its present action sends (R121, R122). -/
def State.actionCut (s : State) (t : Truck) (old : Action) : State :=
  let x := s.slide.trucks.get t
  if x.action = old then s
  else
    match x.action with
    | .none => s
    | .keep => s.reduceTruck t x.held
    | .dump => s.reduceTruck t 0

/-! The evaluation (R106, R115, R117, R118, R124) -/

/-- The triggers and events of an evaluation (R115, R118). Where an onset ends in LOCKOUT, its two triggers
go in an order left open (R115, R118, R124; log 5). -/
def State.announce (s : State) (k : Axle) (j : Judged) : State :=
  let onset := fun u : State => ((u.send .slideOnset (axleNo k)).count (axleNo k)).count 7
  let lockout := fun u : State => (u.send .axleLockout (axleNo k)).count 8
  inAnyOrder ((if j.onset then [onset] else []) ++ if j.locked then [lockout] else []) s

/-- The reduction of a fallen adhesion limit (R117). -/
def State.limitCut (s : State) (k : Axle) (before : Nat) : State :=
  let limit := (s.slide.axles.get k).limit
  if limit < before then s.reduceAxle k limit .adhesion else s

/-- The evaluation of axle `k` (R106). Its hand-offs come at its end (R124); the report of a lockout and
the Slide Unit's own reductions reach the record in an order left open (R52, R81; log 5). -/
def State.evaluate (s : State) (k : Axle) : State :=
  let x := s.slide.axles.get k
  let v := s.speed.axles.get k
  let t := truckOf k
  let c := comparisonOf v.cls v.speed s.speed.vref s.params.vMin s.speed.standstill
  let j := x.judge s.now s.params c v.cls v.decel (s.command k)
  let s₁ := (s.setSlideAxle k j.axle).announce k j
  let old := (s.slide.trucks.get t).action
  let s₂ := if j.axle.state = x.state then s₁ else s₁.rederiveAction t
  if j.locked then
    inAnyOrder [(·.limitCut k x.limit), (·.actionCut t old), (·.refreshLockout k)] s₂
  else (s₂.limitCut k x.limit).actionCut t old

/-! Other events of the Slide Unit -/

/-- The expiry of a truck's dump timer (R123). -/
def State.dumpExpiry (s : State) (t : Truck) : State :=
  let x := s.slide.trucks.get t
  match x.dumpRun with
  | none => s
  | some r =>
    let s₁ := s.setSlideTruck t { x with exhausted := true, dumpRun := none, dumpAcc := r.limit }
    let s₂ := s₁.rederiveAction t
    ((s₂.actionCut t x.action).send .dumpTimeout (truckNo t)).count 10

/-- An accepted CLEAR_LOCKOUT of an axle in LOCKOUT (R119). -/
def State.unlock (s : State) (k : Axle) : State :=
  let x := s.slide.axles.get k
  let old := (s.slide.trucks.get (truckOf k)).action
  let s₁ := s.setSlideAxle k { x.enter s.now .normal 1000 with history := [] }
  ((s₁.rederiveAction (truckOf k)).refreshLockout k).actionCut (truckOf k) old

/-- The oldest entries of an onset history removed down to `n` (R126). -/
def keepNewest (n : Nat) (h : List Stamp) : List Stamp := h.drop (h.length - n)

/-- An accepted write of LOCK_COUNT: a list outside LOCKOUT keeps LOCK_COUNT - 1 entries, one in LOCKOUT
LOCK_COUNT (R126; log 17). -/
def State.applyLockCount (s : State) (n : Nat) : State :=
  s.setSlide
    { s.slide with
      axles := .ofFn fun k =>
        let x := s.slide.axles.get k
        { x with history := keepNewest (if x.state = .lockout then n else n - 1) x.history } }

/-- The creep shown to the masters: that of the last evaluation, 0 for none, UNORDERED or INHIBITED
(R125, R127). -/
def SlideAxle.shownCreep (x : SlideAxle) : Nat :=
  match x.comparison with
  | some (.creep s) => s
  | _ => 0

/-- The Slide Unit at a warm restart: an axle in LOCKOUT stays so with L_k at 0 (R127). -/
def SlideUnit.restart (u : SlideUnit) : SlideUnit :=
  { SlideUnit.reset with
    axles := .ofFn fun k =>
      if (u.axles.get k).state = .lockout then { SlideAxle.reset with state := .lockout, limit := 0 }
      else SlideAxle.reset }

/-- One window expiry of axle `k`, all nine steps (R95). -/
def State.windowExpiry (s : State) (k : Axle) : State :=
  match (s.speed.axles.get k).window with
  | none => s
  | some _ =>
    let (case, s₁) := s.windowSpeed k
    (((s₁.updateVref).governOpen k case).governStill).evaluate k

end Sys2Proof.Machine
end

