-- ==== Sys2Proof/Machine/Links.lean ====
section
/-! DEFINITION. The Link Interfaces: joining, check failures, aborts, loss, and taking a request
(Chapter 10). -/

namespace Sys2Proof.Machine

/-- One Link Interface. -/
def State.port (s : State) (l : LinkId) : LinkPort := s.links.get l

/-- The state with one Link Interface replaced. -/
def State.setPort (s : State) (l : LinkId) (x : LinkPort) : State := s.setLinks (s.links.set l x)

/-- The state of a link. -/
def State.linkState (s : State) (l : LinkId) : LinkState := (s.port l).state

/-- The run of a link's timeout timer (R177). -/
def State.linkRun (s : State) (l : LinkId) : Nat := s.params.linkTimeout.get l

/-! Passing frames (R175) -/

/-- A Link Interface after a passing frame (R175). -/
def LinkPort.pass (x : LinkPort) (timer : Option Timer) : LinkPort :=
  match x.state with
  | .down => { x with state := .joining, join := 1, fail := 0, timeout := timer }
  | .joining =>
    if x.join < 2 then { x with join := x.join + 1, fail := 0, timeout := timer }
    else { x with state := .up, join := 0, fail := 0, timeout := timer }
  | .up => { x with fail := 0, timeout := timer }

/-- A Link Interface reports a change of its link's state to the Effort Resource Table and, for P and A,
to the Demand Unit (R175). -/
def State.reportLink (s : State) (l : LinkId) : State :=
  let s₁ := s.refreshLinkLoss l
  match l with
  | .m => s₁
  | .p | .a => s₁.examineBrake

/-- The change of state that a passing frame brings, made before its request is taken (R175). -/
def State.linkPass (s : State) (l : LinkId) : State :=
  let s₁ := s.setPort l ((s.port l).pass (s.startTimer (s.linkRun l)))
  if s₁.linkState l = s.linkState l then s₁ else s₁.reportLink l

/-! Loss (R178) -/

/-- A link made DOWN, with its NONE response (R173, R178 step 1). -/
def LinkPort.drop (x : LinkPort) : LinkPort :=
  { x with state := .down, join := 0, fail := 0, timeout := none, response := .noRequest }

/-- The cause kind of a link's loss (R178 step 5). -/
def linkLossCause : LinkId → Cause
  | .p => .linkLossP
  | .a => .linkLossA
  | .m => .linkLossM

/-- A link goes DOWN by its timeout (detail 1) or by check failures (detail 2); the recipients of steps 2
to 4 take the report in an order left open (R178; log 5). -/
def State.linkDown (s : State) (l : LinkId) (detail : Nat) : State :=
  let s₁ := s.setPort l (s.port l).drop
  let s₂ := inAnyOrder [(·.postedLinkLost l), (·.demandLinkLost l), (·.refreshLinkLoss l)] s₁
  (s₂.send (linkLossCause l) detail).count 11

/-! Transfers (R169, R170, R173, R176) -/

/-- The transfer is over, or its 32nd byte has been received: DOUT shifts all ones (R169). -/
def LinkPort.ended (x : LinkPort) : LinkPort := { x with transfer := .idle, shiftOut := none }

/-- A response without echo: CHECK_FAILED or ABORTED (R173). -/
def bareResponse (st : Status) : Response := ⟨0, 0, st, {}⟩

/-- The transfer on link `l` is one that is ignored as a whole (R169). -/
def State.ignoring (s : State) (l : LinkId) : Bool := decide ((s.port l).transfer = .ignored)

/-- A failing frame on a link, after the count of event 18 (R176). -/
def State.linkFail (s : State) (l : LinkId) : State :=
  let x := s.port l
  match x.state with
  | .down => s
  | .joining | .up =>
    if x.fail < 2 then
      s.setPort l { x with fail := x.fail + 1, join := 0, response := bareResponse .checkFailed }
    else s.linkDown l 2

/-- The arrival of a failing frame (R172, R176). -/
def State.frameFailure (s : State) (l : LinkId) : State :=
  let s₁ := s.setPort l (s.port l).ended
  if s.ignoring l then s₁ else (s₁.count 18).linkFail l

/-- A Link Interface at an abort (R170). -/
def LinkPort.abort (x : LinkPort) : LinkPort :=
  match x.state with
  | .down => x.ended
  | .joining | .up => { x.ended with response := bareResponse .aborted }

/-- An abort of a transfer (R169, R170). -/
def State.transferAbort (s : State) (l : LinkId) : State :=
  s.setPort l (if s.ignoring l then (s.port l).ended else (s.port l).abort)

/-- The start of a transfer: the response frame starts to shift out; outside service the transfer is
ignored and DOUT shifts all ones (R169, R173). -/
def State.transferStart (s : State) (l : LinkId) : State :=
  let x := s.port l
  if s.inService then s.setPort l { x with transfer := .active, shiftOut := some (s.responseFrame l) }
  else s.setPort l { x with transfer := .ignored, shiftOut := none }

/-! Taking a request (R173, R179) -/

/-- What `exec` answers. -/
abbrev Result := Host.Outcome State Fault Refusal

/-- What carrying out a request gives: the state, and the status and data words of its response, or none
for a request that is never answered (R184). -/
structure Answer where
  state : State
  reply : Option (Status × Words)
  deriving DecidableEq, Repr

/-- An answer with status OK. -/
def answerOk (s : State) (w : Words) : Answer := ⟨s, some (.ok, w)⟩

/-- A refusal: every data word 0 (R173). -/
def refuse (s : State) (st : Status) : Answer := ⟨s, some (st, {})⟩

/-- The pending response of link `l` is replaced, unless the link is DOWN (R173). -/
def State.respond (s : State) (l : LinkId) (x : Response) : State :=
  match (s.port l).state with
  | .down => s
  | .joining | .up => s.setPort l { s.port l with response := x }

/-- The response to a request is formed (R173). -/
def Answer.conclude (a : Answer) (kind : Byte) (r : Req) : State :=
  match a.reply with
  | some (st, w) => a.state.respond r.link ⟨kind, r.tag, st, w⟩
  | none => a.state

/-- The checks 1 and 2 of R179, then the request's own rule. -/
def State.take (s : State) (kind : Byte) (r : Req) (body : State → Answer) : Answer :=
  if !admits kind r.link then refuse s .refusedKind
  else if isPosting kind && decide (s.linkState r.link = .joining) then refuse s .refusedState
  else body s

/-- The state in which a passing frame's request is taken: the transfer has its 32 bytes and the change of
state of R175 is made. -/
def State.arrive (s : State) (l : LinkId) : State := (s.setPort l (s.port l).ended).linkPass l

/-- The arrival of a passing frame: the change of state, the checks and the request itself, and the
response (R169, R173, R175, R179). A frame of an ignored transfer changes nothing but that the transfer
has had its bytes (R169). -/
def State.serve (s : State) (kind : Byte) (r : Req) (body : State → Answer) : State :=
  if s.inService then
    if s.ignoring r.link then s.setPort r.link (s.port r.link).ended
    else ((s.arrive r.link).take kind r body).conclude kind r
  else s

end Sys2Proof.Machine
end

