-- ==== Sys2Proof/Machine/AgeEvents.lean ====
section
/-! DEFINITION. The expiries of the age timers (R6, R7). -/

namespace Sys2Proof.Machine

/-- FRESH_EXPIRY (R6). -/
def execFreshExpiry (i : Item) (s : State) : Result :=
  .next (s.expire (.freshExpiry i) fun u => u.freshExpiry i)

/-- HOLD_EXPIRY (R7). -/
def execHoldExpiry (i : Item) (s : State) : Result :=
  .next (s.expire (.holdExpiry i) fun u => u.holdExpiry i)

/-- GOOD_HOLD_EXPIRY (R7). -/
def execGoodHoldExpiry (i : Item) (s : State) : Result :=
  .next (s.expire (.goodHoldExpiry i) fun u => u.goodHoldExpiry i)

end Sys2Proof.Machine
end

