-- ==== Sys2Proof/Machine/Blend.lean ====
section
/-! DEFINITION. The Blend Unit's computation: caps, water-filling, ramps, credit, air share, pressures,
residual and the two checks (Chapter 4, Sections 4.1 to 4.10). -/

namespace Sys2Proof.Machine

/-! Water-filling (R62) -/

/-- An item to share among: its number and its cap. -/
structure Item62 where
  no : Nat
  cap : Nat
  deriving DecidableEq, Repr

/-- A share given to an item, and whether the item was taken at its cap (R62, R65). -/
structure Share where
  no : Nat
  amount : Nat
  atCap : Bool
  deriving DecidableEq, Repr

/-- `x` comes before `y`: ascending cap, then ascending number (R62 step 1). -/
def Item62.before (x y : Item62) : Bool := decide (x.cap < y.cap) || (decide (x.cap = y.cap) && decide (x.no < y.no))

/-- Places an item in an ordered list. -/
def place (x : Item62) : List Item62 → List Item62
  | [] => [x]
  | y :: ys => if x.before y then x :: y :: ys else y :: place x ys

/-- The items in order of ascending cap, equal caps in ascending number (R62 step 1). -/
def inOrder : List Item62 → List Item62
  | [] => []
  | x :: xs => place x (inOrder xs)

/-- Every remaining item takes the even share, and the first leftover-many in ascending number one unit
more (R62 step 4). -/
def evenShares (rest : List Item62) (r : Nat) : List Share :=
  let even := r / rest.length
  let left := r - even * rest.length
  rest.map fun x =>
    let rank := (rest.filter fun y => decide (y.no < x.no)).length
    ⟨x.no, if rank < left then even + 1 else even, false⟩

/-- Steps 2 to 4 of the water-filling method on items already in order (R62). -/
def fill : List Item62 → Nat → List Share
  | [], _ => []
  | x :: xs, r =>
    if x.cap ≤ r / (xs.length + 1) then ⟨x.no, x.cap, true⟩ :: fill xs (r - x.cap)
    else evenShares (x :: xs) r

/-- The water-filling method (R62). -/
def waterFill (r : Nat) (items : List Item62) : List Share := fill (inOrder items) r

/-- The share of the item numbered `n`. -/
def shareOf (shares : List Share) (n : Nat) : Share :=
  (shares.find? fun x => x.no == n).getD ⟨n, 0, false⟩

/-! Electric caps and shares (R61, R63 to R66) -/

/-- The state term of an axle's cap (Table 4-1). -/
def electricTerm (e : Entry) (previous : Nat) : Nat :=
  match e.state with
  | .active => e.ceiling
  | .frozen => previous
  | .floor => e.floor
  | .off => 0

/-- What one axle brings to the computation (R60). -/
structure AxleInput where
  entry : Entry
  avail : Nat
  limit : Nat
  achieved : Nat
  previous : Nat
  deriving DecidableEq, Repr

/-- The cap C_k (R61, Table 4-1). -/
def AxleInput.cap (x : AxleInput) : Nat :=
  match x.entry.state with
  | .off => 0
  | _ => min (electricTerm x.entry x.previous) (min x.avail x.limit)

/-- The ramp of a command toward its target (R42, R64, R72). -/
def ramped (target previous rise : Nat) : Nat :=
  if previous < target ∧ 0 < rise then min target (previous + rise) else target

/-- The limiting reason code of an axle (R65, Table 4-2). -/
def AxleInput.reason (x : AxleInput) (atCap : Bool) (target command : Nat) : Reason :=
  if atCap ∧ x.entry.state ≠ .active ∧ electricTerm x.entry x.previous = x.cap then .state
  else if atCap ∧ x.limit = x.cap then .adhesion
  else if atCap ∧ x.avail = x.cap then .avail
  else if atCap then .ceiling
  else if command < target then .ramp
  else .share

/-- The record's figures of one axle, from its share (R63 to R65). -/
def AxleInput.alloc (x : AxleInput) (sh : Share) : AxleAlloc :=
  let command := ramped sh.amount x.previous x.entry.riseStep
  { target := sh.amount, command := command, ramping := decide (command < sh.amount)
    reason := x.reason sh.atCap sh.amount command }

/-- The sum of a figure over the six axles. -/
def sumAxles (f : Axle → Nat) : Nat := f .a1 + f .a2 + f .a3 + f .a4 + f .a5 + f .a6

/-- The electric part of the record for a demand: steps 2 to 4 (R61 to R65). -/
def electricPart (dTot : Nat) (xs : PerAxle AxleInput) : PerAxle AxleAlloc :=
  let shares := waterFill dTot (allAxles.map fun k => ⟨axleNo k, (xs.get k).cap⟩)
  .ofFn fun k => (xs.get k).alloc (shareOf shares (axleNo k))

/-- The credited effort of all axles: step 5 (R66). -/
def credited (xs : PerAxle AxleInput) (al : PerAxle AxleAlloc) : Nat :=
  sumAxles fun k => min (al.get k).command (xs.get k).achieved

/-! Air caps, shares and pressures (R67 to R72) -/

/-- What one truck brings to the computation (R60). -/
structure TruckInput where
  entry : Entry
  pZero : Nat
  gain : Nat
  airBound : Nat
  action : Action
  held : Nat
  indep : Nat
  previous : Nat
  deriving DecidableEq, Repr

/-- The effort of a pressure (R67). -/
def TruckInput.effort (x : TruckInput) (p : Nat) : Nat :=
  if x.pZero < p then x.gain * (p - x.pZero) / 100 else 0

/-- The air cap before the slide action (Table 4-3). -/
def TruckInput.stateCap (x : TruckInput) : Nat :=
  match x.entry.state with
  | .active => x.effort x.airBound
  | .frozen => x.effort x.previous
  | .floor => x.effort x.airBound
  | .off => 0

/-- The air cap (R68). -/
def TruckInput.cap (x : TruckInput) : Nat :=
  match x.action with
  | .none => x.stateCap
  | .keep => min x.stateCap (x.effort x.held)
  | .dump => 0

/-- The division of R70 is inexact. -/
def TruckInput.inexact (x : TruckInput) (a : Nat) : Bool := decide (0 < a) && decide (100 * a % x.gain ≠ 0)

/-- The conversion of an air share to a pressure, rounded up (R70). -/
def TruckInput.conversion (x : TruckInput) (a : Nat) : Nat :=
  if a = 0 then 0 else x.pZero + (100 * a / x.gain + bit (x.inexact a))

/-- Stages 2 to 5 of a truck's pressure target (R71). -/
def TruckInput.blended (x : TruckInput) (a : Nat) : Nat :=
  let p₂ := max (x.conversion a) x.indep
  let p₃ := if x.entry.state = .floor then max p₂ x.entry.floor else p₂
  let p₄ := min p₃ x.airBound
  let p₄' := if x.entry.state = .frozen then min p₄ x.previous else p₄
  match x.action with
  | .none => p₄'
  | .keep => min p₄' x.held
  | .dump => 0

/-- Stage 6 of R71 applies (R27): emergency in force, the resource not OFF, the action not DUMP. -/
def TruckInput.emergencyApplies (x : TruckInput) (emergency : Bool) : Bool :=
  emergency && decide (x.entry.state ≠ .off) && decide (x.action ≠ .dump)

/-- The pressure target: stages 6 and 7 (R71). -/
def TruckInput.target (x : TruckInput) (emergency : Bool) (pEmer a : Nat) : Nat :=
  if x.entry.state = .off then 0
  else if x.emergencyApplies emergency then pEmer
  else x.blended a

/-- The record's figures of one truck, from its air share (R70 to R72). -/
def TruckInput.alloc (x : TruckInput) (emergency : Bool) (pEmer a : Nat) : TruckAlloc :=
  let target := x.target emergency pEmer a
  let command :=
    if x.emergencyApplies emergency then pEmer else ramped target x.previous x.entry.riseStep
  { share := a, target := target, command := command, ramping := decide (command < target)
    roundedUp := x.inexact a, action := x.action }

/-- The air part of the record: steps 6 to 8 (R67 to R72). -/
def airPart (left : Nat) (emergency : Bool) (pEmer : Nat) (xs : PerTruck TruckInput) : PerTruck TruckAlloc :=
  let shares := waterFill left (allTrucks.map fun t => ⟨truckNo t, (xs.get t).cap⟩)
  .ofFn fun t => (xs.get t).alloc emergency pEmer (shareOf shares (truckNo t)).amount

/-! The computation (R59, R60, R73 to R77) -/

/-- The inputs of axle `k` at the expiry (R60). -/
def State.axleInput (s : State) (k : Axle) : AxleInput :=
  { entry := s.res.electric.get k, avail := s.posted.availability k
    limit := (s.slide.axles.get k).limit, achieved := s.posted.achieved k, previous := s.command k }

/-- The inputs of truck `t` at the expiry (R60). -/
def State.truckInput (s : State) (t : Truck) : TruckInput :=
  { entry := s.res.air.get t, pZero := s.params.pZero.get t, gain := s.params.gain.get t
    airBound := s.airBound t, action := (s.slide.trucks.get t).action
    held := (s.slide.trucks.get t).held, indep := s.posted.indepFloor t, previous := s.pressure t }

/-- The record that the computation writes (R21, R45, R63 to R73, R76, R77). -/
def State.computedRecord (s : State) : Alloc :=
  let dTot := s.demand.dTot
  let xs : PerAxle AxleInput := .ofFn s.axleInput
  let axles := electricPart dTot xs
  let eCred := credited xs axles
  let left := dTot - eCred
  let trucks := airPart left s.emergencyInForce s.params.pEmer (.ofFn s.truckInput)
  { period := if 65535 ≤ s.blend.record.period then 0 else s.blend.record.period + 1
    revision := 0, dTot := dTot, eCred := eCred, axles := axles, trucks := trucks
    residual := left - (trucks.get .t1).share - (trucks.get .t2).share
    worst := s.posted.worst, emergency := s.emergencyInForce }

/-- The shortfall timer at a computation whose residual is `u` (R74). -/
def Blend.governShort (b : Blend) (now : Stamp) (thr run u : Nat) : Blend :=
  if thr < u then
    match b.short with
    | some _ => b
    | none => if b.shortRaised then b else { b with short := some ⟨now, run⟩ }
  else { b with short := none, shortRaised := false }

/-- The deviation check of one truck at a computation: its timer and episode (R75). -/
def DevWatch.govern (w : DevWatch) (now : Stamp) (tol : Nat) (x : PostedItem) (al : TruckAlloc) : DevWatch :=
  let measured := x.lastValue
  let apart := decide (al.command + tol < measured) || decide (measured + tol < al.command)
  if (x.cls = .valid ∨ x.cls = .clamped) ∧ apart = true ∧ al.ramping = false then
    match w.run with
    | .stopped => if w.raised then w else { w with run := .running now 0 }
    | .running _ _ => w
    | .paused acc => { w with run := .running now acc }
  else if x.cls = .stale ∧ al.ramping = false then
    match w.run with
    | .running since acc => { w with run := .paused (acc + elapsed now since) }
    | _ => w
  else ⟨.stopped, false⟩

/-- Some axle of a record is ramping. -/
def Alloc.anyRamping (r : Alloc) : Bool := allAxles.any fun k => (r.axles.get k).ramping

/-- One blend computation, at the expiry of the blend period timer (R59, R74 to R77; event 20, R64). -/
def State.compute (s : State) : State :=
  let r := s.computedRecord
  let b : Blend := { s.blend with record := r, period := s.startTimer s.params.tBlend }
  let b₁ := b.governShort s.now s.params.shortThr s.params.shortTime r.residual
  let b₂ : Blend :=
    { b₁ with
      dev := .ofFn fun t =>
        (b₁.dev.get t).govern s.now s.params.devTol (s.posted.ap.get t) (r.trucks.get t) }
  let s₁ := s.setBlend b₂
  if r.anyRamping then s₁.count 20 else s₁

/-- The expiry of the shortfall timer (R74). -/
def State.shortfallExpiry (s : State) : State :=
  match s.blend.short with
  | none => s
  | some _ => ((s.setBlend { s.blend with short := none, shortRaised := true }).occur .shortfall 0).count 15

/-- The state with the deviation check of one truck replaced. -/
def State.setDev (s : State) (t : Truck) (w : DevWatch) : State :=
  s.setBlend { s.blend with dev := s.blend.dev.set t w }

/-- The expiry of a truck's air deviation timer (R75). -/
def State.deviationExpiry (s : State) (t : Truck) : State :=
  match (s.blend.dev.get t).run with
  | .running _ _ => (s.setDev t ⟨.stopped, true⟩).occur .deviation (truckNo t)
  | _ => s

/-- The deviation timer is running or paused. -/
def DevRun.isOn : DevRun → Bool
  | .stopped => false
  | .running _ _ | .paused _ => true

/-- An expiry at once of a running or paused deviation timer whose run is already complete (R82, R75). -/
def State.deviationAtOnce (s : State) (t : Truck) : State :=
  if (s.blend.dev.get t).run.isOn then (s.setDev t ⟨.stopped, true⟩).occur .deviation (truckNo t) else s

/-- An accepted write of SHORT_TIME (R82). -/
def State.applyShortTime (s : State) (run : Nat) : State :=
  let s₁ := s.setBlend { s.blend with short := rerun s.blend.short run }
  if overNow s₁.blend.short s.now then s₁.shortfallExpiry else s₁

/-- An accepted write of DEV_TIME: timers whose run is already complete expire at once, in an order left
open (R82; log 5). -/
def State.applyDevTime (s : State) (run : Nat) : State :=
  let due := allTrucks.filter fun t =>
    (s.blend.dev.get t).run.isOn && decide (run ≤ (s.blend.dev.get t).run.sofar s.now)
  inAnyOrder (due.map fun t => (·.deviationAtOnce t)) s

/-- An accepted write of P_SERVICE_MAX: a reduction for each truck whose air bound now lies below its
pressure command (R51, R83). -/
def State.applyPServiceMax (s : State) : State :=
  forEach allTrucks
    (fun t u => if u.airBound t < u.pressure t then u.reduceTruckByTable t (u.airBound t) else u) s

/-- An accepted write of P_EMER: a reduction for each truck whose pressure target lies above it (R83). -/
def State.applyPEmer (s : State) (v : Nat) : State :=
  forEach allTrucks (fun t u => u.reduceTruck t v) s

end Sys2Proof.Machine
end

