-- ==== Sys2Proof/Machine/BlendEvents.lean ====
section
/-! DEFINITION. The expiries of the Blend Unit's timers (R59, R74, R75). -/

namespace Sys2Proof.Machine

/-- BLEND_PERIOD_EXPIRY (R59). -/
def execBlendPeriodExpiry (s : State) : Result :=
  .next (s.expire .blendPeriodExpiry fun u => u.compute)

/-- SHORTFALL_TIMER_EXPIRY (R74). -/
def execShortfallTimerExpiry (s : State) : Result :=
  .next (s.expire .shortfallTimerExpiry fun u => u.shortfallExpiry)

/-- AIR_DEVIATION_TIMER_EXPIRY (R75). -/
def execAirDeviationTimerExpiry (t : Truck) (s : State) : Result :=
  .next (s.expire (.airDeviationTimerExpiry t) fun u => u.deviationExpiry t)

end Sys2Proof.Machine
end

