-- ==== Sys2Proof/Machine/CounterRequests.lean ====
section
/-! DEFINITION. The requests on the Event Counters (R165 to R167). -/

namespace Sys2Proof.Machine

/-- The response words of a counter request: number, selection, count. -/
def counterWords (i : CounterNo) (c : Counter) : Words := dataOf [counterIndex i, c.sel, c.count]

/-- The state with one counter replaced. -/
def State.setCounter (s : State) (i : CounterNo) (c : Counter) : State :=
  s.setCounters (s.counters.set i c)

/-- SET_COUNTER at its arrival (R165). -/
def setCounterAnswer (r : Req) (u : State) : Answer :=
  match counterOf (selectorNo r) with
  | none => refuse u .refusedRange
  | some i =>
    if 63 < param1 r then refuse u .refusedRange
    else
      answerOk (u.setCounter i { u.counters.get i with sel := param1 r })
        (counterWords i { u.counters.get i with sel := param1 r })

/-- SET_COUNTER (R165). -/
def execSetCounter (r : Req) (s : State) : Result := .next (s.serve 96 r (setCounterAnswer r))

/-- CLEAR_COUNTER at its arrival: the response holds the count before the clear (R167). -/
def clearCounterAnswer (r : Req) (u : State) : Answer :=
  match counterOf (selectorNo r) with
  | none => refuse u .refusedRange
  | some i =>
    if u.demand.mode ≠ .maint then refuse u .refusedState
    else
      answerOk (u.setCounter i { u.counters.get i with count := 0 }) (counterWords i (u.counters.get i))

/-- CLEAR_COUNTER (R167). -/
def execClearCounter (r : Req) (s : State) : Result := .next (s.serve 97 r (clearCounterAnswer r))

/-- READ_COUNTER at its arrival (R166). -/
def readCounterAnswer (r : Req) (u : State) : Answer :=
  match counterOf (selectorNo r) with
  | none => refuse u .refusedRange
  | some i => answerOk u (counterWords i (u.counters.get i))

/-- READ_COUNTER (R166). -/
def execReadCounter (r : Req) (s : State) : Result := .next (s.serve 98 r (readCounterAnswer r))

end Sys2Proof.Machine
end

