-- ==== Sys2Proof/Machine/DemandRequests.lean ====
section
/-! DEFINITION. The requests on the holder sets and the mode (R22 to R24, R26, R28, R30). -/

namespace Sys2Proof.Machine

/-- An accepted request of Chapter 2, answered with the holder sets and the mode after it (R22, R26). -/
def holderAnswer (u : State) : Answer := answerOk u u.holderWords

/-- PENALTY_SET (R22). -/
def execPenaltySet (r : Req) (s : State) : Result :=
  .next (s.serve 32 r fun u => holderAnswer (u.penaltyAdd r.link))

/-- PENALTY_CLEAR (R23). -/
def execPenaltyClear (r : Req) (s : State) : Result :=
  .next (s.serve 33 r fun u => holderAnswer (u.penaltyRemove r.link))

/-- A request that is admitted at standstill only (R100). -/
def atStandstill (u : State) (a : Answer) : Answer := if u.speed.standstill then a else refuse u .refusedState

/-- PENALTY_RESET (R24). -/
def execPenaltyReset (r : Req) (s : State) : Result :=
  .next (s.serve 34 r fun u => atStandstill u (holderAnswer u.penaltyEmpty))

/-- EMER_SET (R26). -/
def execEmerSet (r : Req) (s : State) : Result :=
  .next (s.serve 35 r fun u => holderAnswer (u.emergencyAdd r.link))

/-- EMER_CLEAR (R28). -/
def execEmerClear (r : Req) (s : State) : Result :=
  .next (s.serve 36 r fun u => atStandstill u (holderAnswer (u.emergencyRemove r.link)))

/-- The response items of MODE_REQ: the maintenance request set and the mode (R30). -/
def State.maintWords (s : State) : Words := dataOf [s.demand.maint.code, modeCode s.demand.mode]

/-- MODE_REQ at its arrival (R30). -/
def modeAnswer (r : Req) (u : State) : Answer :=
  if selectorNo r ≠ modeCode .maint ∨ 1 < param1 r then refuse u .refusedRange
  else answerOk (u.maintAsk r.link (decide (param1 r = 1))) (u.maintAsk r.link (decide (param1 r = 1))).maintWords

/-- MODE_REQ (R30). -/
def execModeReq (r : Req) (s : State) : Result := .next (s.serve 37 r (modeAnswer r))

end Sys2Proof.Machine
end

