-- ==== Sys2Proof/Machine/RecordMemory.lean ====
section
/-! DEFINITION. Record Memory: the check bits, the classes of a read, the storage of words in one
canonical form, and the checked reads and writes the recorder makes (Chapter 8). -/

namespace Sys2Proof.Machine

/-! Check bits (R153, R154) -/

/-- The position of data bit `i` in a codeword (R153). -/
def dataPos (i : Nat) : Nat :=
  if i = 0 then 3 else if i < 4 then i + 4 else if i < 11 then i + 5 else if i < 26 then i + 6 else i + 7

/-- Exclusive-or of a list of bits. -/
def xorAll (bs : List Bool) : Bool := bs.foldl (fun x y => x != y) false

/-- Check bit `j`, 0 to 5: the data bits whose position has the bit of weight 2^j set (R153). -/
def checkBit (d : Word) (j : Nat) : Bool :=
  xorAll ((List.range 32).map fun i => (dataPos i).testBit j && d.getLsbD i)

/-- Exclusive-or of all data bits. -/
def dataParity (d : Word) : Bool := xorAll ((List.range 32).map d.getLsbD)

/-- Check bit 6: all data bits and check bits 0 to 5 (R153). -/
def checkParity (d : Word) : Bool := dataParity d != xorAll ((List.range 6).map (checkBit d))

/-- The check value that Record Memory computes for a data value (R153). -/
def checkOf (d : Word) : BitVec 7 :=
  BitVec.ofNat 7 (((List.range 6).map fun j => bit (checkBit d j) * 2 ^ j).sum + bit (checkParity d) * 64)

/-- A data value with its computed check value: a codeword (Section 8.2). -/
def protect (d : Word) : MemWord := ⟨d, checkOf d⟩

/-- Classes of a read (R154). -/
inductive ReadClass where
  | clean | corrected | uncorrectable
  deriving DecidableEq, Repr

/-- Class codes of DIAG_READ (R161). -/
def readClassCode : ReadClass → Nat
  | .clean => 0 | .corrected => 1 | .uncorrectable => 2

/-- What a checked read gives: the class and the data returned (R154). -/
structure Checked where
  cls : ReadClass
  data : Word
  deriving DecidableEq, Repr

/-- The syndrome of a stored pair (R154). -/
def syndrome (w : MemWord) : Nat :=
  ((List.range 6).map fun j => bit (w.check.getLsbD j != checkBit w.data j) * 2 ^ j).sum

/-- The parity of a stored pair (R154). -/
def pairParity (w : MemWord) : Bool :=
  dataParity w.data != xorAll ((List.range 7).map w.check.getLsbD)

/-- The data with the bit at position `pos` inverted; a position of a check bit leaves the data (R154). -/
def invertAt (d : Word) (pos : Nat) : Word :=
  match (List.range 32).find? fun i => dataPos i == pos with
  | some i => d ^^^ BitVec.ofNat 32 (2 ^ i)
  | none => d

/-- The class of a stored pair and the data a read returns (R154). -/
def checkWord (w : MemWord) : Checked :=
  if pairParity w then
    if syndrome w ≤ 38 then ⟨.corrected, invertAt w.data (syndrome w)⟩ else ⟨.uncorrectable, w.data⟩
  else if syndrome w = 0 then ⟨.clean, w.data⟩
  else ⟨.uncorrectable, w.data⟩

/-! Storage -/

/-- Words in a slot's area (R134). -/
def slotWords : Nat := 1031

/-- The address of a word of an area: areas 0 to 7 are the slots, 8 the retention area (Table 8-1). -/
def areaAddr (area index : Nat) : Nat := area * slotWords + index

/-- The address of word `w` of a slot. -/
def slotAddr (i : Slot) (w : Nat) : Nat := areaAddr (slotNo i) w

/-- The address of word `w` of snapshot `n` of a slot (R134). -/
def snapAddr (i : Slot) (n w : Nat) : Nat := slotAddr i (7 + 16 * n + w)

/-- The address of a retention word (R152). -/
def retentionAddr (w : Nat) : Nat := areaAddr 8 w

/-- The retention marker (R152). -/
def markerValue : Word := 0x96C35A0F#32

/-- The marker is intact: its word reads clean or corrected with the fixed value (R157). -/
def markerIntact (w : MemWord) : Bool :=
  decide ((checkWord w).cls ≠ .uncorrectable) && decide ((checkWord w).data = markerValue)

/-- What an unlisted address reads as. Before any loss of the retention supply: data 0 with check 0,
DESIGN CHOICE (log 8). After a loss: a free word, but that the scan finds the marker wrong (R152). -/
def unlistedWord (losses a : Nat) : MemWord :=
  match losses with
  | 0 => ⟨0, 0⟩
  | n + 1 =>
    let w : MemWord := ⟨Config.lostData n a, Config.lostCheck n a⟩
    if a = retentionAddr 0 ∧ markerIntact w = true then ⟨0, 0⟩ else w

/-- The listed word at an address. -/
def findCell : List (Nat × MemWord) → Nat → Option MemWord
  | [], _ => none
  | c :: cs, a => if c.1 = a then some c.2 else findCell cs a

/-- Lists a word at an address, keeping addresses strictly rising. -/
def putCell (a : Nat) (w : MemWord) : List (Nat × MemWord) → List (Nat × MemWord)
  | [] => [(a, w)]
  | c :: cs =>
    if a < c.1 then (a, w) :: c :: cs
    else if a = c.1 then (a, w) :: cs
    else c :: putCell a w cs

/-- Unlists an address. -/
def dropCell (a : Nat) : List (Nat × MemWord) → List (Nat × MemWord)
  | [] => []
  | c :: cs => if c.1 = a then cs else c :: dropCell a cs

/-- The stored pair at an address. -/
def Memory.read (m : Memory) (a : Nat) : MemWord :=
  match findCell m.cells a with
  | some w => w
  | none => unlistedWord m.losses a

/-- Stores a pair at an address, keeping the canonical form. -/
def Memory.write (m : Memory) (a : Nat) (w : MemWord) : Memory :=
  if w = unlistedWord m.losses a then { m with cells := dropCell a m.cells }
  else { m with cells := putCell a w m.cells }

/-- The contents become undefined (R152): every word reads as a free word. -/
def Memory.lose (m : Memory) : Memory := ⟨[], m.losses + 1⟩

/-- The canonical form: addresses strictly rising, and no entry equal to what an unlisted address reads
as. -/
abbrev Memory.wf (m : Memory) : Prop :=
  m.cells.Pairwise (fun c d => c.1 < d.1) ∧ ∀ c ∈ m.cells, c.2 ≠ unlistedWord m.losses c.1

/-! The recorder's reads and writes -/

/-- A write of a word by the recorder: the data with its computed check value (R153). -/
def State.storeWord (s : State) (a : Nat) (d : Word) : State := s.setMem (s.mem.write a (protect d))

/-- Writes of consecutive words from an address. -/
def State.storeWords (s : State) (a : Nat) : List Word → State
  | [] => s
  | d :: ds => (s.storeWord a d).storeWords (a + 1) ds

/-- What a read leaves: a corrected word is written back and counted as event 16, an uncorrectable one
counted as event 17 (R154). -/
def State.afterRead (s : State) (a : Nat) (c : Checked) : State :=
  match c.cls with
  | .clean => s
  | .corrected => (s.storeWord a c.data).count 16
  | .uncorrectable => s.count 17

/-- A read of a word by the recorder, through the check (R154). -/
def State.readWord (s : State) (a : Nat) : Checked × State :=
  (checkWord (s.mem.read a), s.afterRead a (checkWord (s.mem.read a)))

/-- Reads of the words at several addresses, in order. -/
def State.readWords (s : State) : List Nat → List Checked × State
  | [] => ([], s)
  | a :: as =>
    let (c, s₁) := s.readWord a
    let (cs, s₂) := s₁.readWords as
    (c :: cs, s₂)

/-- One of the words read is uncorrectable. -/
def anyBad (cs : List Checked) : Bool := cs.any fun c => decide (c.cls = .uncorrectable)

/-- The data of the `i`-th word read. -/
def dataAt (cs : List Checked) (i : Nat) : Word := (cs.getD i ⟨.uncorrectable, 0⟩).data

end Sys2Proof.Machine
end

