-- ==== Sys2Proof/Machine/Recorder.lean ====
section
/-! DEFINITION. The Incident Recorder: snapshots and the history ring, opening, losing, merging,
appending, completing and truncating incidents, FREEZE, and reading and acknowledging slots (Chapter 7,
with the header reads of R156). -/

namespace Sys2Proof.Machine

/-! Snapshots (R128 to R130) -/

/-- The achieved pressure of a truck as a snapshot holds it (Table 7-1). -/
def PostedItem.snapPressure (x : PostedItem) : SnapPressure := ⟨x.pressureValue.getD 0, x.cls⟩

/-- The speed of an axle as it is shown: 0 while ABSENT (R101, R129). -/
def SpeedAxle.shownSpeed (x : SpeedAxle) : Nat := if x.cls = .absent then 0 else x.speed

/-- What a 16-bit half shows of a speed; above 65535 a free value (R92, log 33). -/
def speedHalf (v : Nat) : Nat := if v ≤ 65535 then v else (Config.wideSpeed v).toNat

/-- The snapshot assembled at a sample expiry (Table 7-1, R128 step 1). -/
def State.snapshot (s : State) : Snapshot :=
  let r := s.blend.record
  { stamp := s.now
    mode := s.demand.mode
    links := .ofFn fun l => (s.links.get l).state
    dTot := r.dTot
    eCred := r.eCred
    commands := .ofFn s.command
    speeds := .ofFn fun k => (s.speed.axles.get k).shownSpeed
    speedCls := .ofFn fun k => (s.speed.axles.get k).cls
    slide := .ofFn fun k => (s.slide.axles.get k).state
    vref := s.speed.vref
    pressures := .ofFn s.pressure
    achieved := .ofFn fun t => (s.posted.ap.get t).snapPressure
    actions := .ofFn fun t => (r.trucks.get t).action
    flags := s.excFlags
    penalty := s.demand.penalty
    emergency := s.demand.emergency
    period := r.period
    revision := r.revision }

/-- A record word from its two halves as numbers, high half first (R129). -/
def wordOf (h l : Nat) : Word := join16 (half h) (half l)

/-- The axle byte of Table 7-2. -/
def axleByte (c : Cls) (x : SlideState) : Nat := clsCode c * 16 + slideStateCode x

/-- The sixteen words of a snapshot (Table 7-2). -/
def Snapshot.words (x : Snapshot) : List Word :=
  let byte := fun k => axleByte (x.speedCls.get k) (x.slide.get k)
  [ x.stamp,
    wordOf (modeCode x.mode) (linkStatesCode x.links.get),
    wordOf x.dTot x.eCred,
    wordOf x.commands.a1 x.commands.a2,
    wordOf x.commands.a3 x.commands.a4,
    wordOf x.commands.a5 x.commands.a6,
    wordOf (speedHalf x.speeds.a1) (speedHalf x.speeds.a2),
    wordOf (speedHalf x.speeds.a3) (speedHalf x.speeds.a4),
    wordOf (speedHalf x.speeds.a5) (speedHalf x.speeds.a6),
    wordOf (byte .a1 * 256 + byte .a2) (byte .a3 * 256 + byte .a4),
    wordOf (byte .a5 * 256 + byte .a6) x.vref,
    wordOf x.pressures.t1 x.pressures.t2,
    wordOf x.achieved.t1.value x.achieved.t2.value,
    wordOf (actionCode x.actions.t1 * 256 + actionCode x.actions.t2)
      (clsCode x.achieved.t1.cls * 256 + clsCode x.achieved.t2.cls),
    wordOf (kindSetCode x.flags) (x.penalty.code * 256 + x.emergency.code),
    wordOf x.period x.revision ]

/-- The ring after a push: the newest last, the oldest of 65 discarded (R130). -/
def pushRing (ring : List Snapshot) (x : Snapshot) : List Snapshot :=
  (ring ++ [x]).drop (ring.length + 1 - 64)

/-- The recorder pushes a snapshot (R128 step 2). -/
def State.push (s : State) (x : Snapshot) : State := s.setInc { s.inc with ring := pushRing s.inc.ring x }

/-! Slots and their working copies -/

/-- The recorder's working copy of a slot's state. -/
def State.slotState (s : State) (i : Slot) : SlotState := (s.inc.slots.get i).state

/-- The sequence number of a working copy, 0 where it holds none (R146; log 29). -/
def State.slotSeq (s : State) (i : Slot) : Word := ((s.inc.slots.get i).seq).getD 0

/-- The working copy of a slot's state changes and its sequence number stays. -/
def State.setSlotState (s : State) (i : Slot) (x : SlotState) : State :=
  s.setInc { s.inc with slots := s.inc.slots.set i { s.inc.slots.get i with state := x } }

/-- Header word 6 of a state and marks (R134). -/
def stateWord (x : SlotState) (marks : Half) : Word := join16 (half (slotStateCode x)) marks

/-- The slot in which a capture runs. -/
def State.capturingIn (s : State) (i : Slot) : Bool :=
  match s.inc.capture with
  | some c => decide (c.slot = i)
  | none => false

/-- The recorder's part of a slot found bad: working copy, capture, armed set (R156 steps 2 and 3). -/
def Recorder.dropSlot (x : Recorder) (i : Slot) (capturing : Bool) : Recorder :=
  { x with
    slots := x.slots.set i { x.slots.get i with state := .damaged }
    capture := if capturing then none else x.capture
    armed := x.armed.set i false }

/-- Header word 6 is written DAMAGED with the marks of its read, and the recorder drops the slot
(R156). -/
def State.damageWith (s : State) (i : Slot) (six : Checked) : State :=
  let marks := if six.cls = .uncorrectable then 0 else lo16 six.data
  let s₁ := s.storeWord (slotAddr i 6) (stateWord .damaged marks)
  s₁.setInc (s₁.inc.dropSlot i (s₁.capturingIn i))

/-- A header found bad by an event that did not read word 6: the word is read first (R156). -/
def State.damage (s : State) (i : Slot) : State :=
  let (six, s₁) := s.readWord (slotAddr i 6)
  s₁.damageWith i six

/-! FREEZE (R143, R144) -/

/-- Entry into FREEZE (R143). -/
def State.enterFreeze (s : State) : State :=
  if s.inc.freeze then s else (s.setInc { s.inc with freeze := true }).storeWord (retentionAddr 2) 1

/-- FREEZE is left (R144). -/
def State.leaveFreeze (s : State) : State :=
  if s.inc.freeze then (s.setInc { s.inc with freeze := false }).storeWord (retentionAddr 2) 0 else s

/-! Slot choice, opening and losing (R135 to R138) -/

/-- The next sequence number is consumed (R135). -/
def State.consumeSeq (s : State) : State :=
  let n := s.inc.nextSeq + 1
  (s.setInc { s.inc with nextSeq := n }).storeWord (retentionAddr 1) n

/-- The last next-sequence number, which is never consumed (R135). -/
def lastSeq : Word := 4294967295#32

/-- The lowest-numbered slot in a state. -/
def State.lowestIn (s : State) (x : SlotState) : Option Slot :=
  allSlots.find? fun i => decide (s.slotState i = x)

/-- Of a slot found so far and a READ slot `i`, the one with the lower sequence number. -/
def State.olderRead (s : State) (best : Option Slot) (i : Slot) : Option Slot :=
  if s.slotState i = .read then
    match best with
    | some b => if s.slotSeq i < s.slotSeq b then some i else some b
    | none => some i
  else best

/-- The READ slot with the lowest sequence number. -/
def State.oldestRead (s : State) : Option Slot := allSlots.foldl s.olderRead none

/-- The slot chosen for a new incident (R136). -/
def State.chooseSlot (s : State) : Option Slot :=
  match s.lowestIn .free with
  | some i => some i
  | none =>
    if s.inc.freeze then none
    else
      match s.lowestIn .damaged with
      | some i => some i
      | none => s.oldestRead

/-- A cause entry: kind × 256 + detail (R134). -/
def causeEntry (c : Cause) (detail : Byte) : Half := half (causeCode c * 256 + detail.toNat)

/-- The latest `n` snapshots of the ring, oldest first (R137). -/
def latest (ring : List Snapshot) (n : Nat) : List Snapshot := ring.drop (ring.length - n)

/-- The header written at an opening (R137 step 3). -/
def openHeader (seq : Word) (time : Stamp) (c : Cause) (detail : Byte) (pre : Nat) : List Word :=
  [seq, time, join16 (causeEntry c detail) 0, 0, wordOf 1 0, wordOf pre 0, stateWord .capturing 0]

/-- No capture is in progress from now on. -/
def State.endCapture (s : State) : State := s.setInc { s.inc with capture := none }

/-- The slot's state is written UNREAD at a completion within the opening's own group (R137 step 7,
R139). -/
def State.completeAtOnce (s : State) (i : Slot) : State :=
  ((s.storeWord (slotAddr i 6) (stateWord .unread 0)).setSlotState i .unread).endCapture

/-- The opening of an incident in slot `i` (R137). -/
def State.openSlot (s : State) (i : Slot) (c : Cause) (detail : Byte) : State :=
  let seq := s.inc.nextSeq
  let pre := min s.params.preCount s.inc.ring.length
  let s₁ := s.consumeSeq
  let s₂ := s₁.storeWords (snapAddr i 0 0) ((latest s.inc.ring pre).flatMap Snapshot.words)
  let s₃ := s₂.storeWords (slotAddr i 0) (openHeader seq s.now c detail pre)
  let s₄ := s₃.setInc
    { s₃.inc with
      slots := s₃.inc.slots.set i ⟨.capturing, some seq⟩
      capture := some ⟨i, 0, s.params.postCount⟩ }
  let s₅ := s₄.count 12
  let s₆ := if c = .emergency then s₅.enterFreeze else s₅
  if s.params.postCount = 0 then s₆.completeAtOnce i else s₆

/-- The loss of an incident (R138); at the last number, none is consumed (R135). -/
def State.loseIncident (s : State) : State :=
  let s₁ := if s.inc.nextSeq = lastSeq then s else s.consumeSeq
  (s₁.setInc { s₁.inc with lost := true }).count 13

/-! Merging (R140) -/

/-- The four cause entries of header words 2 and 3 (R134). -/
def causeEntries (w₂ w₃ : Word) : List Half := [hi16 w₂, lo16 w₂, hi16 w₃, lo16 w₃]

/-- A cause kind stands among the first entries of a cause list. -/
def listsKind (entries : List Half) (n : Nat) (c : Cause) : Bool :=
  (entries.take n).any fun e => decide ((hi8 e).toNat = causeCode c)

/-- What a taken trigger came to (R132): the outcome code, the slot concerned and the lower half of the
sequence number concerned. -/
structure Taken where
  code : Nat
  slot : Nat
  seq : Half
  deriving DecidableEq, Repr

/-- A trigger merges into the capturing slot (R140, R156). -/
def State.merge (s : State) (i : Slot) (c : Cause) (detail : Byte) : Taken × State :=
  let seq := lo16 (s.slotSeq i)
  let (ws, s₁) := s.readWords [slotAddr i 2, slotAddr i 3, slotAddr i 4]
  if anyBad ws then (⟨6, slotNo i, seq⟩, s₁.damage i)
  else
    let entries := causeEntries (dataAt ws 0) (dataAt ws 1)
    let n := (hi16 (dataAt ws 2)).toNat
    let further := (lo16 (dataAt ws 2)).toNat
    if listsKind entries n c then (⟨4, slotNo i, seq⟩, s₁)
    else if n < 4 then
      let e := entries.set n (causeEntry c detail)
      let s₂ := s₁.storeWords (slotAddr i 2)
        [join16 (e.getD 0 0) (e.getD 1 0), join16 (e.getD 2 0) (e.getD 3 0), wordOf (n + 1) further]
      let s₃ := s₂.count 14
      (⟨2, slotNo i, seq⟩, if c = .emergency then s₃.enterFreeze else s₃)
    else
      let s₂ := s₁.storeWord (slotAddr i 4) (wordOf n (if further < 255 then further + 1 else further))
      (⟨3, slotNo i, seq⟩, s₂.count 14)

/-! Taking a trigger (R131, R132) -/

/-- A cause kind is in the trigger enable set (R131). -/
def State.enabledCause (s : State) (c : Cause) : Bool := s.inc.enabled.getLsbD (causeCode c)

/-- A trigger of an enabled kind while no capture is in progress (R135, R136). -/
def State.openOrLose (s : State) (c : Cause) (detail : Byte) : Taken × State :=
  if s.inc.nextSeq = lastSeq then (⟨5, 0, lo16 s.inc.nextSeq⟩, s.loseIncident)
  else
    match s.chooseSlot with
    | some i => (⟨1, slotNo i, lo16 s.inc.nextSeq⟩, s.openSlot i c detail)
    | none => (⟨5, 0, lo16 s.inc.nextSeq⟩, s.loseIncident)

/-- The recorder takes a trigger, before or after a sample expiry that arrives with it (R131, R142). -/
def State.takeTrigger (s : State) (c : Cause) (detail : Byte) : Taken × State :=
  if s.enabledCause c then
    match s.inc.capture with
    | some cap => s.merge cap.slot c detail
    | none => s.openOrLose c detail
  else (⟨0, 0, 0⟩, s)

/-- A trigger that was on its way has arrived: the oldest such entry of those sent goes (log 4). -/
def State.arrived (s : State) (x : Trigger) : State := s.setSent (s.sent.erase x)

/-! Capture (R139, R141) -/

/-- The header words that an append is to change: word 5, and word 6 at a completion (R139, R156). -/
def appendReads (c : Capture) : List Nat :=
  if c.planned ≤ c.appended + 1 then [slotAddr c.slot 5, slotAddr c.slot 6] else [slotAddr c.slot 5]

/-- The index of the snapshot that the next append writes: the pre count of the header plus the appended
count (R139). -/
def State.appendIndex (s : State) (c : Capture) : Nat :=
  (hi16 (checkWord (s.mem.read (slotAddr c.slot 5))).data).toNat + c.appended

/-- The next append would meet a good header whose index names no snapshot of the slot (R134; log 25). -/
def State.appendImpossible (s : State) : Bool :=
  match s.inc.capture with
  | some c => !anyBad (s.readWords (appendReads c)).1 && decide (63 < s.appendIndex c)
  | none => false

/-- The capture goes on or completes after an append to slot `c.slot` (R139). -/
def State.afterAppend (s : State) (c : Capture) (six : Word) : State :=
  if c.planned ≤ c.appended + 1 then
    ((s.storeWord (slotAddr c.slot 6) (stateWord .unread (lo16 six))).setSlotState c.slot .unread).endCapture
  else s.setInc { s.inc with capture := some { c with appended := c.appended + 1 } }

/-- A sample expiry appends its snapshot to the capturing slot (R139, R156). -/
def State.append (s : State) (c : Capture) (x : Snapshot) : State :=
  let (ws, s₁) := s.readWords (appendReads c)
  if anyBad ws then
    if c.planned ≤ c.appended + 1 then s₁.damageWith c.slot (ws.getD 1 ⟨.uncorrectable, 0⟩)
    else s₁.damage c.slot
  else
    let pre := hi16 (dataAt ws 0)
    let s₂ := s₁.storeWords (snapAddr c.slot (pre.toNat + c.appended) 0) x.words
    let s₃ := s₂.storeWord (slotAddr c.slot 5) (join16 pre (half (c.appended + 1)))
    s₃.afterAppend c (dataAt ws 1)

/-- The append of a sample expiry, if a capture is in progress (R128 step 3). -/
def State.appendIfCapturing (s : State) (x : Snapshot) : State :=
  match s.inc.capture with
  | some c => s.append c x
  | none => s

/-- A pending RESTART trigger is taken and its mark cleared (R128 step 4, R133). -/
def State.takePendingRestart (s : State) : State :=
  match s.inc.restartPending with
  | some d =>
    let s₁ := (s.takeTrigger .restart d).2
    s₁.setInc { s₁.inc with restartPending := none }
  | none => s

/-- One sample expiry (R128). -/
def State.sampleExpiry (s : State) : State :=
  let x := s.snapshot
  let s₁ := s.setInc { s.inc with sample := s.startTimer s.params.samplePeriod }
  ((s₁.push x).appendIfCapturing x).takePendingRestart

/-- A capture in progress ends at the start of a warm restart (R141, R156). -/
def State.truncate (s : State) : State :=
  match s.inc.capture with
  | none => s
  | some c =>
    let (six, s₁) := s.readWord (slotAddr c.slot 6)
    if six.cls = .uncorrectable then s₁.damageWith c.slot six
    else
      ((s₁.storeWord (slotAddr c.slot 6) (stateWord .unread (lo16 six.data ||| 1))).setSlotState c.slot
        .unread).endCapture

/-! Reading (R146 to R148) -/

/-- The seven header words' addresses. -/
def headerAddrs (i : Slot) : List Nat := (List.range 7).map (slotAddr i)

/-- pre count × 256 + post count, where it fits a data word; otherwise a free value (R147; log 16). -/
def countsWord (pre post : Nat) : Half :=
  if pre * 256 + post ≤ 65535 then half (pre * 256 + post) else Config.wideCounts pre post

/-- The data words of READ_INC_HEADER from the seven header words (R147). -/
def headerData (ws : List Word) : Words :=
  let w := fun n => ws.getD n 0
  wordsOf
    [hi16 (w 6), hi16 (w 0), lo16 (w 0), hi16 (w 1), lo16 (w 1), hi16 (w 2), lo16 (w 2), hi16 (w 3),
      lo16 (w 3), hi16 (w 4), lo16 (w 4), countsWord (hi16 (w 5)).toNat (lo16 (w 5)).toNat, lo16 (w 6)]

/-- A header read of all seven words finds the header bad (R156). -/
def State.headerBad (s : State) (i : Slot) (cs : List Checked) : Bool :=
  anyBad cs || decide ((hi16 (dataAt cs 6)).toNat ≠ slotStateCode (s.slotState i))
    || decide (dataAt cs 0 ≠ s.slotSeq i)

/-- What a header read comes to: damaged or not, and the data words. -/
structure HeaderRead where
  damaged : Bool
  data : Words
  deriving DecidableEq, Repr

/-- The acknowledgement of a slot (R147). -/
def State.acknowledge (s : State) (i : Slot) (marks : Half) : State :=
  let s₁ := (s.storeWord (slotAddr i 6) (stateWord .read marks)).setSlotState i .read
  s₁.setInc { s₁.inc with armed := s₁.inc.armed.set i false }

/-- A header read from link `l` may acknowledge slot `i` (R147, R143). -/
def State.mayAcknowledge (s : State) (l : LinkId) (i : Slot) : Bool :=
  decide (l = .m) && s.inc.armed.get i && decide (s.slotState i = .unread)
    && (!s.inc.freeze || decide (s.params.ackInFreeze = 1))

/-- READ_INC_HEADER of slot `i` from link `l` (R147, R156). -/
def State.readHeader (s : State) (l : LinkId) (i : Slot) : HeaderRead × State :=
  let (cs, s₁) := s.readWords (headerAddrs i)
  let ws := cs.map Checked.data
  if s.headerBad i cs then
    (⟨true, headerData ws⟩, s₁.damageWith i (cs.getD 6 ⟨.uncorrectable, 0⟩))
  else if s.slotState i = .free then (⟨false, { w1 := hi16 (dataAt cs 6) }⟩, s₁)
  else if s.mayAcknowledge l i then
    let marks := lo16 (dataAt cs 6)
    (⟨false, headerData (ws.set 6 (stateWord .read marks))⟩, s₁.acknowledge i marks)
  else (⟨false, headerData ws⟩, s₁)

/-- The stored count of a slot, at most the 64 snapshots it has room for: the data of header word 5 as its
check gives them, which for an uncorrectable word are the stored data as read, whatever the slot's state
(R134, R148; logs 13 and 14). -/
def State.storedCount (s : State) (i : Slot) : Nat :=
  let five := (checkWord (s.mem.read (slotAddr i 5))).data
  min 64 ((hi16 five).toNat + (lo16 five).toNat)

/-- The limit of a snapshot index (R148 check 3). -/
def State.snapLimit (s : State) (i : Slot) : Nat :=
  if s.slotState i = .damaged then 64 else s.storedCount i

/-- The words of a part of a snapshot (R148). -/
def partWords : Nat → List Nat
  | 0 => [0, 1, 2, 3, 4, 5]
  | 1 => [6, 7, 8, 9, 10, 11]
  | _ => [12, 13, 14, 15]

/-- READ_INC_SNAP of a part of snapshot `n` of slot `i`, its checks passed (R148, R155). -/
def State.readSnap (s : State) (i : Slot) (n part : Nat) : HeaderRead × State :=
  let (cs, s₁) := s.readWords ((partWords part).map (snapAddr i n))
  (⟨anyBad cs, wordsOf (half n :: (cs.map Checked.data).flatMap fun w => [hi16 w, lo16 w])⟩, s₁)

/-- Two slot states in one data word (R146). -/
def State.statePair (s : State) (i j : Slot) : Half :=
  half (slotStateCode (s.slotState i) * 256 + slotStateCode (s.slotState j))

/-- The lower half of a slot's sequence number, 0 for a FREE slot (R146). -/
def State.shownSeq (s : State) (i : Slot) : Half := if s.slotState i = .free then 0 else lo16 (s.slotSeq i)

/-- The data words of READ_INC_STATUS (R146). -/
def State.incidentStatus (s : State) : Words :=
  wordsOf
    ([half (bit s.newIncident + 2 * bit s.inc.lost + 4 * bit s.inc.freeze), s.statePair .s0 .s1,
      s.statePair .s2 .s3, s.statePair .s4 .s5, s.statePair .s6 .s7] ++ allSlots.map s.shownSeq)

/-- READ_INC_STATUS arms the UNREAD slots and clears the incident-lost flag (R146). -/
def State.armUnread (s : State) : State :=
  s.setInc { s.inc with armed := .ofFn fun i => decide (s.slotState i = .unread), lost := false }

end Sys2Proof.Machine
end

