-- ==== Sys2Proof/Machine/DiagRequests.lean ====
section
/-! DEFINITION. The diagnostic requests on Record Memory (R160 to R162). -/

namespace Sys2Proof.Machine

/-- The greatest word index of an area (Table 8-1). -/
def areaLast (area : Nat) : Nat := if area = 8 then 2 else 1030

/-- DIAG_SELECT at its arrival (R160). -/
def diagSelectAnswer (r : Req) (u : State) : Answer :=
  if 8 < selectorNo r ∨ areaLast (selectorNo r) < param1 r then refuse u .refusedRange
  else answerOk (u.setDiag ⟨selectorNo r, param1 r⟩) (dataOf [selectorNo r, param1 r])

/-- DIAG_SELECT (R160). -/
def execDiagSelect (r : Req) (s : State) : Result := .next (s.serve 112 r (diagSelectAnswer r))

/-- The address of the selected word. -/
def DiagSel.addr (d : DiagSel) : Nat := areaAddr d.area d.index

/-- The response words of DIAG_READ (R161). -/
def State.diagWords (s : State) : Words :=
  let w := s.mem.read s.diag.addr
  wordsOf [half s.diag.area, half s.diag.index, hi16 w.data, lo16 w.data, half w.check.toNat,
    half (readClassCode (checkWord w).cls)]

/-- DIAG_READ (R161): corrects nothing, writes nothing back and counts nothing. -/
def execDiagRead (r : Req) (s : State) : Result := .next (s.serve 113 r fun u => answerOk u u.diagWords)

/-- The selection names a slot that is CAPTURING (R162 check 2). -/
def State.diagCapturing (s : State) : Bool :=
  match slotOf s.diag.area with
  | some i => decide (s.slotState i = .capturing)
  | none => false

/-- The word that DIAG_WRITE plants (R162). -/
def plantedWord (r : Req) : MemWord := ⟨join16 r.words.w1 r.words.w2, BitVec.ofNat 7 (param3 r)⟩

/-- The state after a plant. -/
def State.plant (s : State) (w : MemWord) : State := s.setMem (s.mem.write s.diag.addr w)

/-- DIAG_WRITE at its arrival (R162). -/
def diagWriteAnswer (r : Req) (u : State) : Answer :=
  if u.demand.mode ≠ .maint then refuse u .refusedState
  else if u.diagCapturing then refuse u .refusedState
  else if 127 < param3 r then refuse u .refusedRange
  else answerOk (u.plant (plantedWord r)) (u.plant (plantedWord r)).diagWords

/-- DIAG_WRITE (R162). -/
def execDiagWrite (r : Req) (s : State) : Result := .next (s.serve 114 r (diagWriteAnswer r))

end Sys2Proof.Machine
end

