-- ==== Sys2Proof/Machine/IncidentRequests.lean ====
section
/-! DEFINITION. The requests that read the incident store (R146 to R148). -/

namespace Sys2Proof.Machine

/-- READ_INC_STATUS at its arrival (R146). -/
def readIncStatusAnswer (u : State) : Answer := answerOk u.armUnread u.incidentStatus

/-- READ_INC_STATUS (R146). -/
def execReadIncStatus (r : Req) (s : State) : Result := .next (s.serve 80 r readIncStatusAnswer)

/-- The answer of a checked read of Record Memory (R147, R148). -/
def readAnswer (x : HeaderRead × State) : Answer :=
  ⟨x.2, some (if x.1.damaged then .damagedData else .ok, x.1.data)⟩

/-- READ_INC_HEADER at its arrival (R147). -/
def readIncHeaderAnswer (r : Req) (u : State) : Answer :=
  match slotOf (selectorNo r) with
  | none => refuse u .refusedRange
  | some i => readAnswer (u.readHeader r.link i)

/-- READ_INC_HEADER (R147). -/
def execReadIncHeader (r : Req) (s : State) : Result := .next (s.serve 81 r (readIncHeaderAnswer r))

/-- READ_INC_SNAP at its arrival (R148). -/
def readIncSnapAnswer (r : Req) (u : State) : Answer :=
  match slotOf (selectorNo r) with
  | none => refuse u .refusedRange
  | some i =>
    if 2 < param2 r then refuse u .refusedRange
    else if u.slotState i = .free then refuse u .refusedState
    else if u.snapLimit i ≤ param1 r then refuse u .refusedRange
    else readAnswer (u.readSnap i (param1 r) (param2 r))

/-- READ_INC_SNAP (R148). -/
def execReadIncSnap (r : Req) (s : State) : Result := .next (s.serve 82 r (readIncSnapAnswer r))

end Sys2Proof.Machine
end

