-- ==== Sys2Proof/Machine/LinkEvents.lean ====
section
/-! DEFINITION. The events of a link other than a passing frame (R169, R170, R176, R177). -/

namespace Sys2Proof.Machine

/-- FRAME_CHECK_FAILURE (R172, R176). -/
def execFrameCheckFailure (l : LinkId) (s : State) : Result :=
  .next (s.ifInService fun u => u.frameFailure l)

/-- TRANSFER_ABORT (R170); outside service only the end of an ignored transfer is noted (R169). -/
def execTransferAbort (l : LinkId) (s : State) : Result :=
  .next (if s.inService then s.transferAbort l else s.setPort l (s.port l).ended)

/-- LINK_TIMEOUT_EXPIRY (R177). -/
def execLinkTimeoutExpiry (l : LinkId) (s : State) : Result :=
  .next (s.expire (.linkTimeoutExpiry l) fun u => u.linkDown l 1)

/-- TRANSFER_START (R169). -/
def execTransferStart (l : LinkId) (s : State) : Result := .next (s.transferStart l)

end Sys2Proof.Machine
end

