-- ==== Sys2Proof/Machine/Reset.lean ====
section
/-! DEFINITION. Power and resets: the power-on scan of Record Memory, the start of the timers, the warm
restart, PORST_N, and the loss of the supplies (R153, R157 to R159, R184, R185 and the chapters' own
reset rules). -/

namespace Sys2Proof.Machine

/-! The power-on scan (R157 to R159) -/

/-- A sequence number that an incident may have (Table 7-5). -/
def goodSeq (w : Word) : Bool := decide (w ≠ 0) && decide (w ≠ lastSeq)

/-- No item of a list appears twice in it. -/
def noRepeats : List Nat → Bool
  | [] => true
  | x :: xs => !xs.contains x && noRepeats xs

/-- A header is malformed (R158). -/
def malformed (cs : List Checked) : Bool :=
  let n := (hi16 (dataAt cs 4)).toNat
  let kinds := ((causeEntries (dataAt cs 2) (dataAt cs 3)).take n).map fun e => (hi8 e).toNat
  !goodSeq (dataAt cs 0) || decide (n < 1) || decide (4 < n) || kinds.any (fun k => decide (15 < k))
    || !noRepeats kinds || decide (32 < (hi16 (dataAt cs 5)).toNat) || decide (32 < (lo16 (dataAt cs 5)).toNat)

/-- The working copy of a slot. -/
def State.setCopy (s : State) (i : Slot) (x : SlotCopy) : State :=
  s.setInc { s.inc with slots := s.inc.slots.set i x }

/-- The slot becomes DAMAGED in the scan: word 6 as R156 gives, the sequence number settled later
(R158). -/
def State.scanDamage (s : State) (i : Slot) (six : Checked) : State :=
  (s.damageWith i six).setCopy i ⟨.damaged, none⟩

/-- The scan reads and classifies one slot (R158). -/
def State.scanSlot (i : Slot) (s : State) : State :=
  let (cs, s₁) := s.readWords (headerAddrs i)
  let six := cs.getD 6 ⟨.uncorrectable, 0⟩
  let seq := dataAt cs 0
  if anyBad cs then s₁.scanDamage i six
  else
    match slotStateOf (hi16 six.data).toNat with
    | none => s₁.scanDamage i six
    | some .free => s₁.setCopy i ⟨.free, none⟩
    | some .damaged => s₁.setCopy i ⟨.damaged, none⟩
    | some .capturing =>
      if malformed cs then s₁.scanDamage i six
      else
        (s₁.storeWord (slotAddr i 6) (stateWord .unread (lo16 six.data ||| 1))).setCopy i
          ⟨.unread, some seq⟩
    | some .unread => if malformed cs then s₁.scanDamage i six else s₁.setCopy i ⟨.unread, some seq⟩
    | some .read => if malformed cs then s₁.scanDamage i six else s₁.setCopy i ⟨.read, some seq⟩

/-- A slot is UNREAD or READ. -/
def State.holdsIncident (s : State) (i : Slot) : Bool :=
  decide (s.slotState i = .unread) || decide (s.slotState i = .read)

/-- Another slot whose working copy holds a sequence number. -/
def State.seqHeld (s : State) (w : Word) (among : Slot → Bool) : Bool :=
  allSlots.any fun j => among j && decide ((s.inc.slots.get j).seq = some w)

/-- An UNREAD or READ slot that repeats the number of a lower-numbered one becomes DAMAGED (R158). -/
def State.scanRepeat (i : Slot) (s : State) : State :=
  let lower := fun j => decide (slotNo j < slotNo i) && s.holdsIncident j
  if s.holdsIncident i && s.seqHeld (s.slotSeq i) lower then
    s.scanDamage i (checkWord (s.mem.read (slotAddr i 6)))
  else s

/-- The sequence number that a DAMAGED slot keeps (R158). -/
def State.scanDamagedSeq (i : Slot) (s : State) : State :=
  let zero := checkWord (s.mem.read (slotAddr i 0))
  if decide (s.slotState i = .damaged) && decide (zero.cls ≠ .uncorrectable) && goodSeq zero.data
      && !s.seqHeld zero.data (fun _ => true) then
    s.setCopy i ⟨.damaged, some zero.data⟩
  else s

/-- The highest sequence number held by a non-FREE slot, 0 when none holds one (R159). -/
def State.highestSeq (s : State) : Nat :=
  (allSlots.map fun i => if s.slotState i = .free then 0 else (s.slotSeq i).toNat).foldl max 0

/-- The next sequence number is recovered from the slots and retention word 1 (R159). -/
def State.scanNextSeq (s : State) : State :=
  let (one, s₁) := s.readWord (retentionAddr 1)
  let first := s.highestSeq + 1
  let next := if one.cls = .uncorrectable then first else max first one.data.toNat
  let w := BitVec.ofNat 32 next
  let s₂ := s₁.setInc { s₁.inc with nextSeq := w }
  if one.cls = .uncorrectable ∨ one.data ≠ w then s₂.storeWord (retentionAddr 1) w else s₂

/-- FREEZE is recovered from retention word 2 (R159). -/
def State.scanFreeze (s : State) : State :=
  let (two, s₁) := s.readWord (retentionAddr 2)
  let off := decide (two.cls ≠ .uncorrectable) && decide (two.data = 0)
  let s₂ := s₁.setInc { s₁.inc with freeze := !off }
  if two.cls = .uncorrectable ∨ (two.data ≠ 0 ∧ two.data ≠ 1) then s₂.storeWord (retentionAddr 2) 1
  else s₂

/-- The retained contents are taken as lost (R157). -/
def State.scanLost (s : State) : State :=
  let s₁ := forEach allSlots (fun i u => u.storeWords (slotAddr i 0) (List.replicate 7 0)) s
  let s₂ := ((s₁.storeWord (retentionAddr 1) 1).storeWord (retentionAddr 2) 0).storeWord (retentionAddr 0)
    markerValue
  (s₂.setMemLost true).setInc
    { s₂.inc with slots := .ofFn fun _ => ⟨.free, none⟩, freeze := false, nextSeq := 1 }

/-- The slots are classified and the retained state recovered (R158, R159). -/
def State.scanIntact (s : State) : State :=
  let s₁ := forEach allSlots State.scanSlot s
  let s₂ := forEach allSlots State.scanRepeat s₁
  let s₃ := forEach allSlots State.scanDamagedSeq s₂
  (s₃.scanNextSeq.scanFreeze).setMemLost false

/-- The whole power-on scan (R157; taken at its completion event, log 11). -/
def State.scan (s : State) : State :=
  let intact := markerIntact (s.mem.read (retentionAddr 0))
  let s₁ := (s.readWord (retentionAddr 0)).2
  if intact then s₁.scanIntact else s₁.scanLost

/-! Timers at a completion (R59, R104, R150, R151) -/

/-- The Speed Unit with its twelve timers started. -/
def SpeedUnit.started (u : SpeedUnit) (window zero : Option Timer) : SpeedUnit :=
  { u with axles := .ofFn fun k => { u.axles.get k with window := window, zero := zero } }

/-- The blend period, window, zero and sample timers start at the completion of a scan or restart. -/
def State.startTimers (s : State) : State :=
  let s₁ := s.setBlend { s.blend with period := s.startTimer s.params.tBlend }
  let s₂ := s₁.setSpeed (s₁.speed.started (s.startTimer s.params.window) (s.startTimer s.params.zeroTime))
  s₂.setInc { s₂.inc with sample := s.startTimer s.params.samplePeriod }

/-- The part goes into service: its timers start and BRK_FAULT follows R36 (R37). -/
def State.enterService (s : State) : State := ((s.setPhase .running).startTimers).examineBrake

/-! The warm restart (R184) -/

/-- A transfer in progress is abandoned, and ignored as a whole (R169, R184). -/
def Transfer.abandon : Transfer → Transfer
  | .idle => .idle
  | .active | .ignored => .ignored

/-- A Link Interface at a reset; DOUT shifts all ones (R169, R184, R185). -/
def LinkPort.restart (x : LinkPort) : LinkPort := { LinkPort.reset with transfer := x.transfer.abandon }

/-- A Link Interface whose transfer is broken off by PORST_N or by loss of VDD (R185; log 9). -/
def LinkPort.cutOff (x : LinkPort) : LinkPort := { x with transfer := x.transfer.abandon, shiftOut := none }

/-- Every item cleared (R2). -/
def Posted.restart (v : Posted) : Posted := allItems.foldl (fun w i => w.set i (w.get i).cleared) v

/-- The Demand Unit at a warm restart: the items are substituted as 0, the maintenance request set is
empty, the other holder sets are kept, D_blend and D_tot are those of the kept sets, and the mode is RUN
(R20, R25, R29, R31, R34). -/
def State.restartDemand (s : State) : Demand :=
  { s.demand with
    db := 0, auto := 0, ind := ⟨0, 0⟩, maint := {}
    dBlend := max s.penSource s.emerSource
    dTot := min (max s.penSource s.emerSource) s.params.dMax
    mode := .run }

/-- The Effort Resource Table at a warm restart; the axles in LOCKOUT stay so (R57, R127). -/
def State.restartResources (s : State) : Resources :=
  { electric := .ofFn fun k =>
      let e := (s.res.electric.get k).restartElectric
      e.settle false e.members.any (s.lockedOut k)
    air := .ofFn fun t =>
      let e := (s.res.air.get t).restartAir s.params.pServiceMax
      e.settle false e.members.any (s.truckLockedOut t) }

/-- The recorder at a warm restart, its capture already truncated (R150). -/
def Recorder.restart (x : Recorder) (detail : Byte) : Recorder :=
  { x with sample := none, ring := [], armed := .ofFn fun _ => false, restartPending := some detail }

/-- The start of a warm restart: the capture in progress ends, and each block takes its restart state
(R184). -/
def State.warmRestart (s : State) (detail : Byte) : State :=
  let u := s.truncate
  { u with
    clock := ⟨0, u.clock.us, 0⟩
    phase := .restarting
    links := .ofFn fun l => (u.links.get l).restart
    posted := u.posted.restart
    demand := u.restartDemand
    res := u.restartResources
    blend := .reset
    tach := .ofFn fun _ => .reset
    speed := .reset
    slide := u.slide.restart
    inc := u.inc.restart detail
    brkFault := true
    dump := ⟨false, false⟩
    sent := [] }

/-- The detail of a restart from WRST_N (R133). -/
def fromWrst : Byte := 1

/-- The detail of a restart from the RESTART request (R133). -/
def fromRequest : Byte := 2

/-- The assertion of WRST_N (R184). -/
def State.wrstAssert (s : State) : State :=
  match s.phase with
  | .running => s.warmRestart fromWrst
  | .restarting | .scanning | .held | .unpowered => s

/-- The completion of a warm restart (R184). -/
def State.restartComplete (s : State) : State :=
  match s.phase with
  | .restarting => s.enterService
  | .running | .scanning | .held | .unpowered => s

/-- The completion of the power-on scan; WRST_N found asserted begins a warm restart (R159, R184). -/
def State.scanComplete (s : State) (wrst : Bool) : State :=
  match s.phase with
  | .scanning =>
    let s₁ := s.scan.enterService
    if wrst then s₁.warmRestart fromWrst else s₁
  | .running | .restarting | .held | .unpowered => s

/-! Power-on, PORST_N and the supplies (R152, R153, R185) -/

/-- The release of PORST_N: every block takes its power-on state and the scan begins. Record Memory keeps
its contents (R152, R185; log 9). Where the part was without VDD, VBAK is taken to be back with it
(log 27). -/
def State.powerOn (s : State) : State :=
  { State.reset with
    pending := s.pending
    links := .ofFn fun l => (s.links.get l).restart
    mem := s.mem
    vbak := s.vbak || decide (s.phase = .unpowered)
    choice := s.choice }

/-- The assertion of PORST_N (R185; without VDD only the lines follow, log 9). -/
def State.porstAssert (s : State) : State :=
  let s₁ := ((s.setBrkFault true).setDump ⟨false, false⟩).setLinks (.ofFn fun l => (s.links.get l).cutOff)
  match s.phase with
  | .unpowered => s₁
  | .held | .scanning | .running | .restarting => s₁.setPhase .held

/-- Record Memory while VDD is absent: its words are kept by VBAK, and undefined without it (R152). -/
def State.retain (s : State) : State := if s.vbak then s else s.setMem s.mem.lose

/-- The loss of VDD: a capture in progress is ended (R141, R153), and Record Memory is left to VBAK
(R152). -/
def State.powerLoss (s : State) : State :=
  ((s.endCapture.setLinks (.ofFn fun l => (s.links.get l).cutOff)).setPhase .unpowered).retain

/-- The loss of VBAK: while VDD is absent the contents are lost; while it is present they stay, until VDD is
lost too (R152; log 27). -/
def State.retentionLoss (s : State) : State :=
  match s.phase with
  | .unpowered => (s.setVbak false).retain
  | .held | .scanning | .running | .restarting => s.setVbak false

end Sys2Proof.Machine
end

