-- ==== Sys2Proof/Machine/LinkRequests.lean ====
section
/-! DEFINITION. The requests that concern the links themselves: NOP, RESTART, and a frame whose kind is
unknown or not admitted (R179, R184). -/

namespace Sys2Proof.Machine

/-- NOP (R179): changes nothing and is answered with OK and no data. -/
def execNop (r : Req) (s : State) : Result := .next (s.serve 1 r fun u => answerOk u {})

/-- RESTART at its arrival (R184): begins a warm restart at standstill and is then never answered. -/
def restartAnswer (u : State) : Answer :=
  if u.speed.standstill then ⟨u.warmRestart fromRequest, none⟩ else refuse u .refusedState

/-- RESTART (R184). -/
def execRestart (r : Req) (s : State) : Result := .next (s.serve 128 r restartAnswer)

/-- A passing frame whose kind is unknown or not admitted on its link (R179). A kind that is admitted is
no such frame (log 24). -/
def execUnknownRequestKind (kind : Byte) (r : Req) (s : State) : Result :=
  if admits kind r.link then .refused .kindIsAdmitted
  else .next (s.serve kind r fun u => refuse u .refusedKind)

end Sys2Proof.Machine
end

