-- ==== Sys2Proof/Machine/Params.lean ====
section
/-! DEFINITION. The 51 parameters: their identifiers, ranges with the bounds that depend on other
parameters, and what an accepted write does (Table 10-5, R182, R183 and the parameter tables). -/

namespace Sys2Proof.Machine

/-- The parameters in id order (Table 10-5). -/
inductive ParamId where
  | tFresh | tHold | dMax | penEffort | tBlend | pServiceMax | pEmer
  | pZero (t : Truck)
  | gain (t : Truck)
  | shortThr | shortTime | devTol | devTime | tachRate | window | teeth
  | circ (k : Axle)
  | zeroTime | noiseLimit | openSpeed | openTime | decay | rise | stillTime | vMin | sSuspect | sSlide
  | sRelease | aDet | suspectMax | recoverTime | slideMax | lockCount | lockWindow | cutFactor
  | recoverRate | dumpMax | samplePeriod | preCount | postCount | ackInFreeze
  | linkTimeout (l : LinkId)
  deriving DecidableEq, Repr

/-- The parameters of ids 1 to 51, in id order (Table 10-5). -/
def paramList : List ParamId :=
  [.tFresh, .tHold, .dMax, .penEffort, .tBlend, .pServiceMax, .pEmer, .pZero .t1, .pZero .t2, .gain .t1,
    .gain .t2, .shortThr, .shortTime, .devTol, .devTime,
    .tachRate, .window, .teeth, .circ .a1, .circ .a2, .circ .a3, .circ .a4, .circ .a5, .circ .a6, .zeroTime,
    .noiseLimit, .openSpeed, .openTime, .decay, .rise, .stillTime,
    .vMin, .sSuspect, .sSlide, .sRelease, .aDet, .suspectMax, .recoverTime, .slideMax, .lockCount,
    .lockWindow, .cutFactor, .recoverRate, .dumpMax,
    .samplePeriod, .preCount, .postCount, .ackInFreeze, .linkTimeout .p, .linkTimeout .a, .linkTimeout .m]

/-- The parameter of an id 1..51. -/
def paramOf (id : Nat) : Option ParamId := if id = 0 then none else paramList[id - 1]?

/-- The value in force. -/
def Params.get (p : Params) : ParamId → Nat
  | .tFresh => p.tFresh
  | .tHold => p.tHold
  | .dMax => p.dMax
  | .penEffort => p.penEffort
  | .tBlend => p.tBlend
  | .pServiceMax => p.pServiceMax
  | .pEmer => p.pEmer
  | .pZero t => p.pZero.get t
  | .gain t => p.gain.get t
  | .shortThr => p.shortThr
  | .shortTime => p.shortTime
  | .devTol => p.devTol
  | .devTime => p.devTime
  | .tachRate => p.tachRate
  | .window => p.window
  | .teeth => p.teeth
  | .circ k => p.circ.get k
  | .zeroTime => p.zeroTime
  | .noiseLimit => p.noiseLimit
  | .openSpeed => p.openSpeed
  | .openTime => p.openTime
  | .decay => p.decay
  | .rise => p.rise
  | .stillTime => p.stillTime
  | .vMin => p.vMin
  | .sSuspect => p.sSuspect
  | .sSlide => p.sSlide
  | .sRelease => p.sRelease
  | .aDet => p.aDet
  | .suspectMax => p.suspectMax
  | .recoverTime => p.recoverTime
  | .slideMax => p.slideMax
  | .lockCount => p.lockCount
  | .lockWindow => p.lockWindow
  | .cutFactor => p.cutFactor
  | .recoverRate => p.recoverRate
  | .dumpMax => p.dumpMax
  | .samplePeriod => p.samplePeriod
  | .preCount => p.preCount
  | .postCount => p.postCount
  | .ackInFreeze => p.ackInFreeze
  | .linkTimeout l => p.linkTimeout.get l

/-- The parameters with one replaced. -/
def Params.set (p : Params) (v : Nat) : ParamId → Params
  | .tFresh => { p with tFresh := v }
  | .tHold => { p with tHold := v }
  | .dMax => { p with dMax := v }
  | .penEffort => { p with penEffort := v }
  | .tBlend => { p with tBlend := v }
  | .pServiceMax => { p with pServiceMax := v }
  | .pEmer => { p with pEmer := v }
  | .pZero t => { p with pZero := p.pZero.set t v }
  | .gain t => { p with gain := p.gain.set t v }
  | .shortThr => { p with shortThr := v }
  | .shortTime => { p with shortTime := v }
  | .devTol => { p with devTol := v }
  | .devTime => { p with devTime := v }
  | .tachRate => { p with tachRate := v }
  | .window => { p with window := v }
  | .teeth => { p with teeth := v }
  | .circ k => { p with circ := p.circ.set k v }
  | .zeroTime => { p with zeroTime := v }
  | .noiseLimit => { p with noiseLimit := v }
  | .openSpeed => { p with openSpeed := v }
  | .openTime => { p with openTime := v }
  | .decay => { p with decay := v }
  | .rise => { p with rise := v }
  | .stillTime => { p with stillTime := v }
  | .vMin => { p with vMin := v }
  | .sSuspect => { p with sSuspect := v }
  | .sSlide => { p with sSlide := v }
  | .sRelease => { p with sRelease := v }
  | .aDet => { p with aDet := v }
  | .suspectMax => { p with suspectMax := v }
  | .recoverTime => { p with recoverTime := v }
  | .slideMax => { p with slideMax := v }
  | .lockCount => { p with lockCount := v }
  | .lockWindow => { p with lockWindow := v }
  | .cutFactor => { p with cutFactor := v }
  | .recoverRate => { p with recoverRate := v }
  | .dumpMax => { p with dumpMax := v }
  | .samplePeriod => { p with samplePeriod := v }
  | .preCount => { p with preCount := v }
  | .postCount => { p with postCount := v }
  | .ackInFreeze => { p with ackInFreeze := v }
  | .linkTimeout l => { p with linkTimeout := p.linkTimeout.set l v }

/-- The least and greatest values that a write would now accept (R182): the ranges of Tables 1-3, 2-5,
4-11, 5-8, 6-6 and 7-8 and of Section 10.4, with the dependent bounds of R9, R35, R82 and R126. -/
def Params.bounds (p : Params) : ParamId → Nat × Nat
  | .tFresh => (20, min 1000 (p.tHold - 1))
  | .tHold => (p.tFresh + 1, 5000)
  | .dMax => (max 1000 p.penEffort, 6000)
  | .penEffort => (0, p.dMax)
  | .tBlend => (5, 20)
  | .pServiceMax => (200, min 450 p.pEmer)
  | .pEmer => (p.pServiceMax, 500)
  | .pZero _ => (0, 100)
  | .gain _ => (50, 1000)
  | .shortThr => (0, 1000)
  | .shortTime => (100, 5000)
  | .devTol => (5, 100)
  | .devTime => (200, 5000)
  | .tachRate => (250, 2000)
  | .window => (10, 40)
  | .teeth => (60, 250)
  | .circ _ => (3000, 4000)
  | .zeroTime => (200, 5000)
  | .noiseLimit => (1, 15)
  | .openSpeed => (500, 3000)
  | .openTime => (500, 10000)
  | .decay => (100, 1000)
  | .rise => (100, 2000)
  | .stillTime => (500, 5000)
  | .vMin => (100, 1000)
  | .sSuspect => (max 20 p.sRelease, min 300 p.sSlide)
  | .sSlide => (p.sSuspect, 500)
  | .sRelease => (5, p.sSuspect)
  | .aDet => (200, 3000)
  | .suspectMax => (20, 1000)
  | .recoverTime => (100, 3000)
  | .slideMax => (500, 10000)
  | .lockCount => (1, 15)
  | .lockWindow => (5, 300)
  | .cutFactor => (100, 900)
  | .recoverRate => (1, 200)
  | .dumpMax => (500, 5000)
  | .samplePeriod => (10, 100)
  | .preCount => (0, 32)
  | .postCount => (0, 32)
  | .ackInFreeze => (0, 1)
  | .linkTimeout _ => (10, 2000)

/-- A value belongs to the set of values a parameter is limited to within its bounds (Tables 4-11, 5-8,
7-8). -/
def inSet (v : Nat) : ParamId → Bool
  | .tBlend => decide (v ∈ [5, 10, 20])
  | .tachRate => decide (v ∈ [250, 500, 1000, 2000])
  | .window => decide (v ∈ [10, 20, 40])
  | .samplePeriod => decide (v % 10 = 0)
  | _ => true

/-- A written value lies in the parameter's range (R183 check 3). -/
def Params.accepts (p : Params) (i : ParamId) (v : Nat) : Bool :=
  decide ((p.bounds i).1 ≤ v) && decide (v ≤ (p.bounds i).2) && inSet v i

/-- A parameter that is written at standstill only (R183 check 2). -/
def needsStandstill : ParamId → Bool
  | .linkTimeout _ => false
  | _ => true

/-- The data words of READ_PARAM (R182). -/
def State.paramWords (s : State) (id : Nat) (i : ParamId) : Words :=
  dataOf [id, s.params.get i, (s.params.bounds i).1, (s.params.bounds i).2]

/-- An accepted write of a LINK_TIMEOUT acts on that link's running timer (R177). -/
def State.applyLinkTimeout (s : State) (l : LinkId) (v : Nat) : State :=
  let t := rerun (s.port l).timeout v
  let s₁ := s.setPort l { s.port l with timeout := t }
  if overNow t s.now then s₁.linkDown l 1 else s₁

/-- What an accepted write does beside replacing the parameter (R9, R35, R82 to R84, R102, R103, R126,
R149, R177). The parameters that are only read later call for nothing at the write. -/
def State.applyParam (s : State) (v : Nat) : ParamId → State
  | .tFresh => s.applyTFresh v
  | .tHold => s.applyTHold v
  | .dMax => s.demandChanged
  | .penEffort => s.demandChanged
  | .pServiceMax => s.applyPServiceMax
  | .pEmer => s.applyPEmer v
  | .shortTime => s.applyShortTime v
  | .devTime => s.applyDevTime v
  | .zeroTime => s.applyZeroTime v
  | .openTime => s.applyOpenTime v
  | .stillTime => s.applyStillTime v
  | .lockCount => s.applyLockCount v
  | .linkTimeout l => s.applyLinkTimeout l v
  | .tBlend | .pZero _ | .gain _ | .shortThr | .devTol | .tachRate | .window | .teeth | .circ _
  | .noiseLimit | .openSpeed | .decay | .rise | .vMin | .sSuspect | .sSlide | .sRelease | .aDet
  | .suspectMax | .recoverTime | .slideMax | .lockWindow | .cutFactor | .recoverRate | .dumpMax
  | .samplePeriod | .preCount | .postCount | .ackInFreeze => s

/-- An accepted write of a parameter (R183). -/
def State.writeParam (s : State) (i : ParamId) (v : Nat) : State :=
  (s.setParams (s.params.set v i)).applyParam v i

end Sys2Proof.Machine
end

