-- ==== Sys2Proof/Machine/MonitorRequests.lean ====
section
/-! DEFINITION. The M-link's requests on parameters, exceptions, triggers, FREEZE and lockouts (R183, R16,
R17, R131, R132, R144, R119). -/

namespace Sys2Proof.Machine

/-- WRITE_PARAM at its arrival (R183). -/
def writeParamAnswer (r : Req) (u : State) : Answer :=
  match paramOf (selectorNo r) with
  | none => refuse u .refusedRange
  | some i =>
    if needsStandstill i && !u.speed.standstill then refuse u .refusedState
    else if !u.params.accepts i (param1 r) then refuse u .refusedRange
    else answerOk (u.writeParam i (param1 r)) ((u.writeParam i (param1 r)).paramWords (selectorNo r) i)

/-- WRITE_PARAM (R183). -/
def execWriteParam (r : Req) (s : State) : Result := .next (s.serve 64 r (writeParamAnswer r))

/-- SET_MASK at its arrival (R17). -/
def setMaskAnswer (r : Req) (u : State) : Answer :=
  if 63 < selectorNo r then refuse u .refusedRange
  else
    answerOk (u.setExc (setMasks u.exc (kindSetOf (selectorNo r))))
      (dataOf [(u.setExc (setMasks u.exc (kindSetOf (selectorNo r)))).masksCode])

/-- SET_MASK (R17). -/
def execSetMask (r : Req) (s : State) : Result := .next (s.serve 65 r (setMaskAnswer r))

/-- CLEAR_EXC at its arrival (R16). -/
def clearExcAnswer (r : Req) (u : State) : Answer :=
  if 63 < selectorNo r then refuse u .refusedRange
  else answerOk (u.setExc (clearKinds u.exc (kindSetOf (selectorNo r)))) (dataOf [u.flagsCode])

/-- CLEAR_EXC (R16). -/
def execClearExc (r : Req) (s : State) : Result := .next (s.serve 66 r (clearExcAnswer r))

/-- SET_TRIGGERS at its arrival (R131). -/
def setTriggersAnswer (r : Req) (u : State) : Answer :=
  answerOk (u.setInc { u.inc with enabled := r.words.w1 }) { w1 := r.words.w1 }

/-- SET_TRIGGERS (R131). -/
def execSetTriggers (r : Req) (s : State) : Result := .next (s.serve 67 r (setTriggersAnswer r))

/-- The response words of MARK (R132). -/
def Taken.words (t : Taken) : Words := { w1 := half t.code, w2 := half t.slot, w3 := t.seq }

/-- MARK at its arrival (R132). -/
def markAnswer (r : Req) (u : State) : Answer :=
  if 255 < param1 r then refuse u .refusedRange
  else
    answerOk (u.takeTrigger .manualMark (lo8 r.words.w1)).2
      (u.takeTrigger .manualMark (lo8 r.words.w1)).1.words

/-- MARK (R132). -/
def execMark (r : Req) (s : State) : Result := .next (s.serve 68 r (markAnswer r))

/-- FREEZE_RELEASE at its arrival (R144). -/
def freezeReleaseAnswer (u : State) : Answer :=
  if !u.speed.standstill || u.emergencyInForce then refuse u .refusedState
  else answerOk u.leaveFreeze (dataOf [bit u.leaveFreeze.inc.freeze])

/-- FREEZE_RELEASE (R144). -/
def execFreezeRelease (r : Req) (s : State) : Result := .next (s.serve 69 r freezeReleaseAnswer)

/-- The response words of CLEAR_LOCKOUT: slide state, L_k and history count (R119). -/
def State.lockoutWords (s : State) (k : Axle) : Words :=
  let x := s.slide.axles.get k
  dataOf [slideStateCode x.state, x.limit, x.history.length]

/-- CLEAR_LOCKOUT at its arrival (R119). -/
def clearLockoutAnswer (r : Req) (u : State) : Answer :=
  match axleOf (selectorNo r) with
  | none => refuse u .refusedRange
  | some k =>
    if !u.speed.standstill then refuse u .refusedState
    else if !u.lockedOut k then answerOk u (u.lockoutWords k)
    else answerOk (u.unlock k) ((u.unlock k).lockoutWords k)

/-- CLEAR_LOCKOUT (R119). -/
def execClearLockout (r : Req) (s : State) : Result := .next (s.serve 70 r (clearLockoutAnswer r))

end Sys2Proof.Machine
end

