-- ==== Sys2Proof/Machine/Postings.lean ====
section
/-! DEFINITION. The seven posting requests (R1 to R5, R12, R15). -/

namespace Sys2Proof.Machine

/-- A posting request taken at its arrival: its items are delivered, and answered with their classes
(R1). -/
def postAnswer (items : List Item) (r : Req) (u : State) : Answer :=
  answerOk (u.post r items) ((u.post r items).classWords items)

/-- POST_DB (R1). -/
def execPostDb (r : Req) (s : State) : Result := .next (s.serve 16 r (postAnswer [.db] r))

/-- POST_AVAIL (R1). -/
def execPostAvail (r : Req) (s : State) : Result := .next (s.serve 17 r (postAnswer availItems r))

/-- POST_ACHIEVED (R1). -/
def execPostAchieved (r : Req) (s : State) : Result := .next (s.serve 18 r (postAnswer achievedItems r))

/-- POST_GROUND (R1). -/
def execPostGround (r : Req) (s : State) : Result := .next (s.serve 19 r (postAnswer [.gs] r))

/-- POST_AUTO (R1). -/
def execPostAuto (r : Req) (s : State) : Result := .next (s.serve 20 r (postAnswer [.auto] r))

/-- POST_IND (R1). -/
def execPostInd (r : Req) (s : State) : Result := .next (s.serve 21 r (postAnswer indItems r))

/-- POST_PRESSURE (R1). -/
def execPostPressure (r : Req) (s : State) : Result := .next (s.serve 22 r (postAnswer pressureItems r))

end Sys2Proof.Machine
end

