-- ==== Sys2Proof/Machine/PowerEvents.lean ====
section
/-! DEFINITION. The events of the supplies and resets (R152, R153, R157 to R159, R184, R185). -/

namespace Sys2Proof.Machine

/-- PORST_N_ASSERT (R185). -/
def execPorstNAssert (s : State) : Result := .next s.porstAssert

/-- POWER_ON: the release of PORST_N (R185). -/
def execPowerOn (s : State) : Result := .next s.powerOn

/-- POWER_ON_SCAN_COMPLETE (R159, R184). -/
def execPowerOnScanComplete (wrst : Bool) (s : State) : Result := .next (s.scanComplete wrst)

/-- WRST_N_ASSERT (R184). -/
def execWrstNAssert (s : State) : Result := .next s.wrstAssert

/-- WARM_RESTART_COMPLETE (R184). -/
def execWarmRestartComplete (s : State) : Result := .next s.restartComplete

/-- POWER_LOSS (R153). -/
def execPowerLoss (s : State) : Result := .next s.powerLoss

/-- RETENTION_SUPPLY_LOSS (R152). -/
def execRetentionSupplyLoss (s : State) : Result := .next s.retentionLoss

end Sys2Proof.Machine
end

