-- ==== Sys2Proof/Machine/RecorderEvents.lean ====
section
/-! DEFINITION. The events of the Incident Recorder (R128, R131, R136). -/

namespace Sys2Proof.Machine

/-- SAMPLE_TIMER_EXPIRY (R128). The fault is of log 25. -/
def execSampleTimerExpiry (s : State) : Result :=
  if s.inService && s.due .sampleTimerExpiry then
    if s.appendImpossible then .fault .noSuchRecordWord else .next s.sampleExpiry
  else .next s

/-- The arrival of a trigger at the recorder (R131). -/
def State.triggerArrives (s : State) (c : Cause) (detail : Byte) : State :=
  ((s.arrived ⟨c, detail⟩).takeTrigger c detail).2

/-- INCIDENT_TRIGGER (R131, R136, R140); triggers are not taken in a restart or scan (R150, R151). -/
def execIncidentTrigger (c : Cause) (detail : Byte) (s : State) : Result :=
  .next (s.ifInService fun u => u.triggerArrives c detail)

/-- What happens when no command waits: the oldest trigger on its way arrives, or a µs passes (logs 2
and 4). -/
def State.idle (s : State) : State :=
  match s.sent with
  | x :: _ => if s.inService then s.triggerArrives x.cause x.detail else s.tick
  | [] => s.tick

end Sys2Proof.Machine
end

