-- ==== Sys2Proof/Machine/ResourceRequests.lean ====
section
/-! DEFINITION. WRITE_RES and READ_RES (R53, R54, R56). -/

namespace Sys2Proof.Machine

/-- The members of a resource. -/
def State.membersOf (s : State) : Resource → LinkSet
  | .electric k => (s.res.electric.get k).members
  | .air t => (s.res.air.get t).members

/-- The value lies in the range of the field (R53 check 4). -/
def State.fieldOk (s : State) (x : Resource) (f : Field) (v : Nat) : Bool :=
  match x with
  | .electric k => electricFieldOk (s.res.electric.get k) f v
  | .air t => airFieldOk s.params.pServiceMax (s.res.air.get t) f v

/-- An accepted write of a field (R54). -/
def State.writeResource (s : State) (x : Resource) (f : Field) (v : Nat) : State :=
  match x with
  | .electric k => s.writeElectric k f v
  | .air t => s.writeAir t f v

/-- A link may write a field of a resource (R53 checks 2 and 3). -/
def State.mayWrite (s : State) (l : LinkId) (x : Resource) (f : Field) : Bool :=
  decide (l = .m) || (decide (f ≠ .members) && (s.membersOf x).has l)

/-- WRITE_RES at its arrival (R53, R54); of two writes the later one stands (R55). -/
def writeResAnswer (r : Req) (u : State) : Answer :=
  match resourceOf (selectorNo r), fieldOf r.field.toNat with
  | some x, some f =>
    if !u.mayWrite r.link x f then refuse u .refusedMember
    else if !u.fieldOk x f (param1 r) then refuse u .refusedRange
    else answerOk (u.writeResource x f (param1 r)) ((u.writeResource x f (param1 r)).resourceWords x)
  | _, _ => refuse u .refusedRange

/-- WRITE_RES (R53). -/
def execWriteRes (r : Req) (s : State) : Result := .next (s.serve 48 r (writeResAnswer r))

/-- READ_RES at its arrival (R56). -/
def readResAnswer (r : Req) (u : State) : Answer :=
  match resourceOf (selectorNo r) with
  | some x => answerOk u (u.resourceWords x)
  | none => refuse u .refusedRange

/-- READ_RES (R56). -/
def execReadRes (r : Req) (s : State) : Result := .next (s.serve 49 r (readResAnswer r))

end Sys2Proof.Machine
end

