-- ==== Sys2Proof/Machine/SpeedEvents.lean ====
section
/-! DEFINITION. The tachometer samples and the expiries of the Speed Unit's and Slide Unit's timers (R87 to
R90, R93, R95, R99, R123). -/

namespace Sys2Proof.Machine

/-- TACH_SAMPLE: the next sample of an input while sampling runs (R87, R88; log 28). -/
def execTachSample (k : Axle) (high : Bool) (s : State) : Result :=
  .next (s.ifInService fun u => u.tachSample k high)

/-- TACH_QUALIFICATION: the sample that completes a qualification (R87; log 28). -/
def execTachQualification (k : Axle) (high : Bool) (s : State) : Result :=
  .next (s.ifInService fun u => u.tachSample k high)

/-- WINDOW_EXPIRY (R95, R106). -/
def execWindowExpiry (k : Axle) (s : State) : Result :=
  .next (s.expire (.windowExpiry k) fun u => u.windowExpiry k)

/-- ZERO_TIMER_EXPIRY (R90). -/
def execZeroTimerExpiry (k : Axle) (s : State) : Result :=
  .next (s.expire (.zeroTimerExpiry k) fun u => u.zeroExpiry k)

/-- OPEN_TACH_TIMER_EXPIRY (R93). -/
def execOpenTachTimerExpiry (k : Axle) (s : State) : Result :=
  .next (s.expire (.openTachTimerExpiry k) fun u => u.openTachExpiry k)

/-- STANDSTILL_TIMER_EXPIRY (R99). -/
def execStandstillTimerExpiry (s : State) : Result :=
  .next (s.expire .standstillTimerExpiry fun u => u.stillExpiry)

/-- DUMP_TIMER_EXPIRY (R123). -/
def execDumpTimerExpiry (t : Truck) (s : State) : Result :=
  .next (s.expire (.dumpTimerExpiry t) fun u => u.dumpExpiry t)

end Sys2Proof.Machine
end

