-- ==== Sys2Proof/Machine/StatusRequests.lean ====
section
/-! DEFINITION. READ_ALLOC, READ_STATUS, READ_AXLE and READ_PARAM (R78, R180 to R182). -/

namespace Sys2Proof.Machine

/-! READ_ALLOC (Table 4-5) -/

/-- Two reason codes in one word: the lower-numbered axle's times 256 plus the other's (R78). -/
def Alloc.reasons (r : Alloc) (i j : Axle) : Nat :=
  reasonCode (r.axles.get i).reason * 256 + reasonCode (r.axles.get j).reason

/-- The ramping set of the axles (R78). -/
def Alloc.rampingAxles (r : Alloc) : Nat := axleSetCode fun k => (r.axles.get k).ramping

/-- The ramping set of the trucks (R78). -/
def Alloc.rampingTrucks (r : Alloc) : Nat := truckSetCode fun t => (r.trucks.get t).ramping

/-- The rounded-up set (R78). -/
def Alloc.roundedTrucks (r : Alloc) : Nat := truckSetCode fun t => (r.trucks.get t).roundedUp

/-- The data words of a part 0..3 of the allocation record (Table 4-5). -/
def Alloc.part (r : Alloc) (n : Nat) : Words :=
  let cmd := fun k => (r.axles.get k).command
  let tgt := fun k => (r.axles.get k).target
  match n with
  | 0 => dataOf [r.period, r.revision, r.dTot, r.eCred, cmd .a1, cmd .a2, cmd .a3, cmd .a4, cmd .a5, cmd .a6,
      r.rampingAxles, r.residual, bit r.emergency]
  | 1 => dataOf [r.period, r.revision, tgt .a1, tgt .a2, tgt .a3, tgt .a4, tgt .a5, tgt .a6,
      r.reasons .a1 .a2, r.reasons .a3 .a4, r.reasons .a5 .a6, r.rampingAxles, bit r.emergency]
  | 2 => dataOf [r.period, r.revision, r.trucks.t1.share, r.trucks.t2.share, r.trucks.t1.target,
      r.trucks.t2.target, r.trucks.t1.command, r.trucks.t2.command, r.roundedTrucks,
      actionCode r.trucks.t1.action, actionCode r.trucks.t2.action, r.rampingTrucks, bit r.emergency]
  | _ => dataOf [r.period, r.revision, clsCode r.worst.demand, clsCode r.worst.indep, clsCode r.worst.avail,
      clsCode r.worst.achieved, clsCode r.worst.pressure, clsCode r.worst.ground, 0, 0, 0, 0,
      bit r.emergency]

/-- READ_ALLOC at its arrival (R78). -/
def readAllocAnswer (r : Req) (u : State) : Answer :=
  if 3 < selectorNo r then refuse u .refusedRange else answerOk u (u.blend.record.part (selectorNo r))

/-- READ_ALLOC (R78). -/
def execReadAlloc (r : Req) (s : State) : Result := .next (s.serve 50 r (readAllocAnswer r))

/-! READ_STATUS (R180) -/

/-- The three words of a kind's first-source detail; 0 while its flag is clear (R180). -/
def sourceWords (e : ExcEntry) : List Half :=
  match e.source with
  | some x => [half x.detail.toNat, hi16 x.stamp, lo16 x.stamp]
  | none => [0, 0, 0]

/-- The data words of a part 0..2 of READ_STATUS (R180). -/
def State.statusPart (s : State) (n : Nat) : Words :=
  match n with
  | 0 => wordsOf
      ([modeCode s.demand.mode, bit s.speed.standstill, s.speed.vref,
        linkStatesCode fun l => (s.links.get l).state, s.flagsCode, s.masksCode, s.demand.penalty.code,
        s.demand.emergency.code, s.demand.maint.code, bit s.memLost, bit s.brkFault].map half
        ++ [hi16 s.now, lo16 s.now])
  | 1 => wordsOf (sourceWords s.exc.clamped ++ sourceWords s.exc.stale ++ sourceWords s.exc.fault)
  | _ => wordsOf (sourceWords s.exc.tach ++ sourceWords s.exc.shortfall ++ sourceWords s.exc.deviation)

/-- READ_STATUS at its arrival (R180). -/
def readStatusAnswer (r : Req) (u : State) : Answer :=
  if 2 < selectorNo r then refuse u .refusedRange else answerOk u (u.statusPart (selectorNo r))

/-- READ_STATUS (R180). -/
def execReadStatus (r : Req) (s : State) : Result := .next (s.serve 51 r (readStatusAnswer r))

/-! READ_AXLE (R181) -/

/-- The data words of READ_AXLE (R181). -/
def State.axleWords (s : State) (k : Axle) : Words :=
  let x := s.slide.axles.get k
  dataOf [axleNo k, speedHalf (s.speed.axles.get k).shownSpeed, clsCode (s.speed.axles.get k).cls,
    slideStateCode x.state, x.limit, x.shownCreep, x.history.length]

/-- READ_AXLE at its arrival (R181). -/
def readAxleAnswer (r : Req) (u : State) : Answer :=
  match axleOf (selectorNo r) with
  | some k => answerOk u (u.axleWords k)
  | none => refuse u .refusedRange

/-- READ_AXLE (R181). -/
def execReadAxle (r : Req) (s : State) : Result := .next (s.serve 52 r (readAxleAnswer r))

/-! READ_PARAM (R182) -/

/-- READ_PARAM at its arrival (R182; the bounds are those of the range, log 18). -/
def readParamAnswer (r : Req) (u : State) : Answer :=
  match paramOf (selectorNo r) with
  | some i => answerOk u (u.paramWords (selectorNo r) i)
  | none => refuse u .refusedRange

/-- READ_PARAM (R182). -/
def execReadParam (r : Req) (s : State) : Result := .next (s.serve 53 r (readParamAnswer r))

end Sys2Proof.Machine
end

