-- ==== Sys2Proof/Machine/Dispatch.lean ====
section
/-! DEFINITION. The dispatch: one arm for each command. -/

namespace Sys2Proof.Machine

def exec (i : Instr) (s : State) : Host.Outcome State Fault Refusal :=
  match i with
  | .nop r => Sys2Proof.Machine.execNop r s
  | .postDb r => Sys2Proof.Machine.execPostDb r s
  | .postAvail r => Sys2Proof.Machine.execPostAvail r s
  | .postAchieved r => Sys2Proof.Machine.execPostAchieved r s
  | .postGround r => Sys2Proof.Machine.execPostGround r s
  | .postAuto r => Sys2Proof.Machine.execPostAuto r s
  | .postInd r => Sys2Proof.Machine.execPostInd r s
  | .postPressure r => Sys2Proof.Machine.execPostPressure r s
  | .penaltySet r => Sys2Proof.Machine.execPenaltySet r s
  | .penaltyClear r => Sys2Proof.Machine.execPenaltyClear r s
  | .penaltyReset r => Sys2Proof.Machine.execPenaltyReset r s
  | .emerSet r => Sys2Proof.Machine.execEmerSet r s
  | .emerClear r => Sys2Proof.Machine.execEmerClear r s
  | .modeReq r => Sys2Proof.Machine.execModeReq r s
  | .writeRes r => Sys2Proof.Machine.execWriteRes r s
  | .readRes r => Sys2Proof.Machine.execReadRes r s
  | .readAlloc r => Sys2Proof.Machine.execReadAlloc r s
  | .readStatus r => Sys2Proof.Machine.execReadStatus r s
  | .readAxle r => Sys2Proof.Machine.execReadAxle r s
  | .readParam r => Sys2Proof.Machine.execReadParam r s
  | .writeParam r => Sys2Proof.Machine.execWriteParam r s
  | .setMask r => Sys2Proof.Machine.execSetMask r s
  | .clearExc r => Sys2Proof.Machine.execClearExc r s
  | .setTriggers r => Sys2Proof.Machine.execSetTriggers r s
  | .mark r => Sys2Proof.Machine.execMark r s
  | .freezeRelease r => Sys2Proof.Machine.execFreezeRelease r s
  | .clearLockout r => Sys2Proof.Machine.execClearLockout r s
  | .readIncStatus r => Sys2Proof.Machine.execReadIncStatus r s
  | .readIncHeader r => Sys2Proof.Machine.execReadIncHeader r s
  | .readIncSnap r => Sys2Proof.Machine.execReadIncSnap r s
  | .setCounter r => Sys2Proof.Machine.execSetCounter r s
  | .clearCounter r => Sys2Proof.Machine.execClearCounter r s
  | .readCounter r => Sys2Proof.Machine.execReadCounter r s
  | .diagSelect r => Sys2Proof.Machine.execDiagSelect r s
  | .diagRead r => Sys2Proof.Machine.execDiagRead r s
  | .diagWrite r => Sys2Proof.Machine.execDiagWrite r s
  | .restart r => Sys2Proof.Machine.execRestart r s
  | .unknownRequestKind kind r => Sys2Proof.Machine.execUnknownRequestKind kind r s
  | .frameCheckFailure l => Sys2Proof.Machine.execFrameCheckFailure l s
  | .transferAbort l => Sys2Proof.Machine.execTransferAbort l s
  | .linkTimeoutExpiry l => Sys2Proof.Machine.execLinkTimeoutExpiry l s
  | .freshExpiry x => Sys2Proof.Machine.execFreshExpiry x s
  | .holdExpiry x => Sys2Proof.Machine.execHoldExpiry x s
  | .goodHoldExpiry x => Sys2Proof.Machine.execGoodHoldExpiry x s
  | .blendPeriodExpiry => Sys2Proof.Machine.execBlendPeriodExpiry s
  | .shortfallTimerExpiry => Sys2Proof.Machine.execShortfallTimerExpiry s
  | .airDeviationTimerExpiry t => Sys2Proof.Machine.execAirDeviationTimerExpiry t s
  | .tachQualification k high => Sys2Proof.Machine.execTachQualification k high s
  | .windowExpiry k => Sys2Proof.Machine.execWindowExpiry k s
  | .zeroTimerExpiry k => Sys2Proof.Machine.execZeroTimerExpiry k s
  | .openTachTimerExpiry k => Sys2Proof.Machine.execOpenTachTimerExpiry k s
  | .standstillTimerExpiry => Sys2Proof.Machine.execStandstillTimerExpiry s
  | .dumpTimerExpiry t => Sys2Proof.Machine.execDumpTimerExpiry t s
  | .sampleTimerExpiry => Sys2Proof.Machine.execSampleTimerExpiry s
  | .incidentTrigger c detail => Sys2Proof.Machine.execIncidentTrigger c detail s
  | .porstNAssert => Sys2Proof.Machine.execPorstNAssert s
  | .powerOn => Sys2Proof.Machine.execPowerOn s
  | .powerOnScanComplete wrst => Sys2Proof.Machine.execPowerOnScanComplete wrst s
  | .wrstNAssert => Sys2Proof.Machine.execWrstNAssert s
  | .warmRestartComplete => Sys2Proof.Machine.execWarmRestartComplete s
  | .transferStart l => Sys2Proof.Machine.execTransferStart l s
  | .tachSample k high => Sys2Proof.Machine.execTachSample k high s
  | .powerLoss => Sys2Proof.Machine.execPowerLoss s
  | .retentionSupplyLoss => Sys2Proof.Machine.execRetentionSupplyLoss s

end Sys2Proof.Machine
end

