-- ==== Sys2Proof/Safety.lean ====
section
/-! DEFINITION. What the statements are said in: when a request is taken, when a timer has run out, and the
invariants that every step keeps. -/

namespace Sys2Proof.Machine

/-! Requests -/

/-- A frame that arrives on link `l` is taken: the part is in service and the transfer is not one that is
ignored as a whole (R169). -/
abbrev State.Serving (s : State) (l : LinkId) : Prop := s.phase = .running ∧ (s.port l).transfer ≠ .ignored

/-- A passing frame of kind `kind` with contents `r` is taken in the state `u`: it is admitted, `u` is `s`
after the change of state that the arrival brings (R175), and a posting finds its link UP (R179). -/
abbrev State.Takes (s : State) (kind : Byte) (r : Req) (u : State) : Prop :=
  s.Serving r.link ∧ admits kind r.link = true ∧ u = s.arrive r.link
    ∧ (isPosting kind = true → u.linkState r.link = .up)

/-- The state `u` with the response of a request pending on its link (R173). -/
def State.answered (u : State) (kind : Byte) (r : Req) (st : Status) (w : Words) : State :=
  u.setPort r.link { u.port r.link with response := ⟨kind, r.tag, st, w⟩ }

/-- The posting requests: the command, its kind code and its items in item order (R1, Table 10-4). -/
def postings : List ((Req → Instr) × Byte × List Item) :=
  [(.postDb, 16, [.db]),
    (.postAvail, 17, [.av .a1, .av .a2, .av .a3, .av .a4, .av .a5, .av .a6]),
    (.postAchieved, 18, [.ae .a1, .ae .a2, .ae .a3, .ae .a4, .ae .a5, .ae .a6]),
    (.postGround, 19, [.gs]),
    (.postAuto, 20, [.auto]),
    (.postInd, 21, [.ind .t1, .ind .t2]),
    (.postPressure, 22, [.ap .t1, .ap .t2])]

/-- A command that the part takes only while it is in service: every request, and every event but those of
a transfer's start and abort, of the resets and of the supplies (R169, R184, R185). -/
def needsService : Instr → Bool
  | .transferStart _ | .transferAbort _ | .porstNAssert | .powerOn | .powerOnScanComplete _ | .wrstNAssert
  | .warmRestartComplete | .powerLoss | .retentionSupplyLoss => false
  | _ => true

/-- A timer is running and its run has passed: its expiry is due. -/
def State.runOver (s : State) (t : Option Timer) : Bool :=
  match t with
  | some x => decide (x.run ≤ (s.now - x.start).toNat)
  | none => false

/-! What one event does in an order left open -/

/-- The relations of a list taken one after another, each from the state that the one before left; the
model's own count of free choices (log 5) may move between them. -/
def Chained : List (State → State → Prop) → State → State → Prop
  | [], a, t => ∃ n, t = a.setChoice n
  | r :: rs, a, t => ∃ n m, r (a.setChoice n) m ∧ Chained rs m t

/-- The relations of a list taken one after another in some order. -/
def InSomeOrder (rs : List (State → State → Prop)) (a t : State) : Prop :=
  ∃ qs, qs.Perm rs ∧ Chained qs a t

/-! What cuts and a change of mode may do -/

/-- One cut more: the revision rises by 1 and stays at 65535 (R77). -/
def oneMore (n : Nat) : Nat := if n < 65535 then n + 1 else n

/-- `t` is `a` after a reduction of axle `k` to `bound`: below the target it cuts target and command, sets
the ramping indication, the reason and the revision; otherwise it changes nothing (R79). -/
def AxleReduced (k : Axle) (bound : Nat) (why : Reason) (a t : State) : Prop :=
  t = if bound < (a.blend.record.axles.get k).target then
    a.setRecord { a.blend.record with
      revision := oneMore a.blend.record.revision
      axles := a.blend.record.axles.set k
        ⟨bound, min (a.command k) bound, decide (a.command k < bound), why⟩ }
  else a

/-- `t` is `a` after a reduction of truck `x` to `bound` (R80). -/
def TruckReduced (x : Truck) (bound : Nat) (a t : State) : Prop :=
  t = if bound < (a.blend.record.trucks.get x).target then
    a.setRecord { a.blend.record with
      revision := oneMore a.blend.record.revision
      trucks := a.blend.record.trucks.set x
        { a.blend.record.trucks.get x with
          target := bound, command := min (a.pressure x) bound
          ramping := decide (a.pressure x < bound) } }
  else a

/-- The bound of an electric entry's new state, where its state has changed (R50, Table 3-6). -/
def electricChangeBound (e e' : Entry) : Option Nat :=
  if e'.state = e.state then none
  else
    match e'.state with
    | .active => some e'.ceiling
    | .frozen => none
    | .floor => some e'.floor
    | .off => some 0

/-- The bound of an air entry's new state, where its state has changed (R50, Table 3-6). -/
def airChangeBound (pServiceMax : Nat) (e e' : Entry) : Option Nat :=
  if e'.state = e.state then none
  else
    match e'.state with
    | .active | .floor => some (min e'.ceiling pServiceMax)
    | .frozen => none
    | .off => some 0

/-- The bound that cuts axle `k` when its entry becomes `e'`: that of a changed state, below the command and
the target (R50, R79). -/
def State.axleCutTo (b : State) (k : Axle) (e' : Entry) : Option Nat :=
  (electricChangeBound (b.res.electric.get k) e').filter fun x =>
    decide (x < b.command k) && decide (x < (b.blend.record.axles.get k).target)

/-- The bound that cuts truck `y` when its entry becomes `e'`; while emergency is in force a bound above 0
leaves a pressure target at P_EMER (R50, R52, R80). -/
def State.truckCutTo (b : State) (y : Truck) (e' : Entry) : Option Nat :=
  (airChangeBound b.params.pServiceMax (b.res.air.get y) e').filter fun x =>
    decide (x < b.pressure y) && decide (x < (b.blend.record.trucks.get y).target) &&
      !(b.demand.emergency.any && decide (0 < x) &&
        decide ((b.blend.record.trucks.get y).target = b.params.pEmer))

/-- The record of `t` is that of `b` after the cuts that the change of the resource table from `b` to `t`
calls for, and no other: each cut actuator's target and command stand at the bound, without ramping, an
axle's with reason STATE; each cut raises the revision by 1, up to 65535 (R50, R52, R77, R79, R80). -/
structure TableCuts (b t : State) : Prop where
  axles : ∀ k, t.blend.record.axles.get k = match b.axleCutTo k (t.res.electric.get k) with
    | some x => ⟨x, x, false, .state⟩
    | none => b.blend.record.axles.get k
  trucks : ∀ y, t.blend.record.trucks.get y = match b.truckCutTo y (t.res.air.get y) with
    | some x => { b.blend.record.trucks.get y with target := x, command := x, ramping := false }
    | none => b.blend.record.trucks.get y
  revision : t.blend.record.revision =
    max b.blend.record.revision (min 65535 (b.blend.record.revision
      + (allAxles.filter fun k => (b.axleCutTo k (t.res.electric.get k)).isSome).length
      + (allTrucks.filter fun y => (b.truckCutTo y (t.res.air.get y)).isSome).length))
  same : t.blend = { b.blend with
    record := { b.blend.record with
      revision := t.blend.record.revision, axles := t.blend.record.axles
      trucks := t.blend.record.trucks } }

/-- Blend Unit `b'` is `b` but for cuts: targets and commands may have fallen, with the ramping
indications, the limiting reasons and the revision; every other figure and every timer stands (R79, R80,
R81). -/
structure OnlyCut (b b' : Blend) : Prop where
  timers : b' = { b with record := b'.record }
  record : b'.record =
    { b.record with
      revision := b'.record.revision, axles := b'.record.axles, trucks := b'.record.trucks }
  revision : b.record.revision ≤ b'.record.revision
  axles : ∀ k, (b'.record.axles.get k).target ≤ (b.record.axles.get k).target
    ∧ (b'.record.axles.get k).command ≤ (b.record.axles.get k).command
  trucks : ∀ t, b'.record.trucks.get t =
      { b.record.trucks.get t with
        target := (b'.record.trucks.get t).target
        command := (b'.record.trucks.get t).command
        ramping := (b'.record.trucks.get t).ramping }
    ∧ (b'.record.trucks.get t).target ≤ (b.record.trucks.get t).target
    ∧ (b'.record.trucks.get t).command ≤ (b.record.trucks.get t).command

/-- The mode that the evaluation gives enters or leaves STAND (R33). -/
def State.standChanges (b : State) : Prop :=
  b.evaluatedMode ≠ b.demand.mode ∧ (b.evaluatedMode = .stand ∨ b.demand.mode = .stand)

/-- An entry with the condition STAND as given and its state derived anew (R46, R49). -/
def Entry.withStand (e : Entry) (on : Bool) : Entry :=
  { e with stand := on, state := { e with stand := on }.derive }

/-- `t` is `b` with its mode re-evaluated: the mode is the one of R32; where it enters or leaves STAND,
every entry's condition STAND follows and its state is derived again, with exactly the cuts that follow
(R33, R46, R49, R50, R79, R80); nothing else differs. -/
structure ModeSettled (b t : State) : Prop where
  mode : t.demand = { b.demand with mode := b.evaluatedMode }
  same : t = ((b.setDemand t.demand).setRes t.res).setBlend t.blend
  still : ¬b.standChanges → t.res = b.res ∧ t.blend = b.blend
  electric : b.standChanges → ∀ k,
    t.res.electric.get k = (b.res.electric.get k).withStand (decide (t.demand.mode = .stand))
  air : b.standChanges → ∀ x,
    t.res.air.get x = (b.res.air.get x).withStand (decide (t.demand.mode = .stand))
  cuts : OnlyCut b.blend t.blend
  exact : TableCuts b t
  off : ∀ k, (t.res.electric.get k).state = .off → (b.res.electric.get k).state ≠ .off →
    b.command k ≤ (b.blend.record.axles.get k).target → t.command k = 0

/-! What an exception and a changed posted value lead to -/

/-- `t` is `b` after an occurrence of kind `k` with the given detail: a clear flag is set with the detail
and the present time, a set flag stays with its first source, and an unmasked kind sends its trigger either
way (R13, R14). -/
structure Raised (b t : State) (k : ExcKind) (detail : Nat) : Prop where
  clear : (b.exc.get k).source = none →
    t.exc.get k = { b.exc.get k with source := some ⟨BitVec.ofNat 8 detail, b.now⟩ }
  set : (b.exc.get k).source ≠ none → t.exc.get k = b.exc.get k
  others : ∀ k', k' ≠ k → t.exc.get k' = b.exc.get k'
  trigger : t.sent =
    if (b.exc.get k).masked then b.sent else b.sent ++ [⟨causeOfKind k, BitVec.ofNat 8 detail⟩]
  same : t = (b.setExc t.exc).setSent t.sent

/-- `t` is `b` after an occurrence whose detail is the first item of a list, if there is one (R15). -/
def RaisedFirst (b t : State) (k : ExcKind) (items : List Item) : Prop :=
  match items.head? with
  | some i => Raised b t k (itemCode i)
  | none => t = b

/-- The demand figures `d` with D_blend and D_tot recomputed from the four sources (R20). -/
def State.recomputed (u : State) (d : Demand) : State :=
  let pen := if d.penalty.any then u.params.penEffort else 0
  let emer := if d.emergency.any then u.params.dMax else 0
  let dBlend := max (max d.db d.auto) (max pen emer)
  u.setDemand { d with dBlend := dBlend, dTot := min dBlend u.params.dMax }

/-- Axle `k`'s substituted availability is lower than it was in `old`, and below the axle's target. -/
def State.availFalls (b : State) (old : Posted) (k : Axle) : Bool :=
  decide (b.posted.availability k < old.availability k) &&
    decide (b.posted.availability k < (b.blend.record.axles.get k).target)

/-- `m` is `b` after the limit reductions for the availabilities that have fallen since `old`: each cut
axle has the availability as its target, its command lowered to it, and reason AVAIL, and each cut raises
the revision by 1 up to 65535 (R12, R77, R79). -/
structure AvailCut (b m : State) (old : Posted) : Prop where
  axles : ∀ k, m.blend.record.axles.get k =
    if b.availFalls old k then
      let a := b.posted.availability k
      ⟨a, min (b.command k) a, decide (b.command k < a), .avail⟩
    else b.blend.record.axles.get k
  revision : m.blend.record.revision =
    max b.blend.record.revision
      (min 65535 (b.blend.record.revision + (allAxles.filter (b.availFalls old)).length))
  same : m = b.setRecord
    { b.blend.record with revision := m.blend.record.revision, axles := m.blend.record.axles }

/-- `t` is `b` after the table, which stood at `old`, has handed on what changed: the limit reductions, and
one inform of the Demand Unit if any of its four figures changed, with D_blend, D_tot and the mode (R12,
R19, R20, R32, R33). -/
def Handed (b t : State) (old : Posted) : Prop :=
  ∃ m, AvailCut b m old ∧
    (b.posted.demandFigures = old.demandFigures → t = m) ∧
    (b.posted.demandFigures ≠ old.demandFigures →
      ModeSettled
        (m.recomputed
          { m.demand with
            db := b.posted.db.demandValue, auto := b.posted.auto.demandValue
            ind := ⟨b.posted.indepFloor .t1, b.posted.indepFloor .t2⟩ }) t)

/-- `t` is `a` after a hold expiry of item `i`: a STALE or FAULT item whose hold timer runs becomes ABSENT,
and what changed is handed on; on another it has no effect (R7, R12; log 30). -/
def HoldTaken (i : Item) (a t : State) : Prop :=
  let x := a.posted.get i
  if x.hold ≠ none ∧ (x.cls = .stale ∨ x.cls = .fault) then
    Handed (a.setPosted (a.posted.set i { x with
      cls := .absent, last := none, good := none, fresh := none, hold := none, goodHold := none }))
      t a.posted
  else t = a

/-- `t` is `a` after a good-hold expiry of item `i`: the good value of an item whose good-hold timer runs no
longer backs it, and what changed is handed on; on a VALID or CLAMPED item it has no effect (R7, R12;
log 30). -/
def GoodHoldTaken (i : Item) (a t : State) : Prop :=
  let x := a.posted.get i
  if x.goodHold ≠ none ∧ x.cls ≠ .valid ∧ x.cls ≠ .clamped then
    Handed (a.setPosted (a.posted.set i { x with goodHold := none })) t a.posted
  else t = a

/-- `t` is `a` after the reduction of truck `x` to its air bound at the end of an emergency: the first of the
two clears the record's emergency flag, and the revision rises by 1 for the cut or, without a cut, for the
clearing (R80). -/
def EmergencyEnds (x : Truck) (a t : State) : Prop :=
  let r := a.blend.record
  let y := r.trucks.get x
  let bound := a.airBound x
  t = a.setRecord { r with
    emergency := false
    revision := if bound < y.target ∨ r.emergency = true then oneMore r.revision else r.revision
    trucks := if bound < y.target then
        r.trucks.set x { y with
          target := bound, command := min y.command bound, ramping := decide (y.command < bound) }
      else r.trucks }

/-- The items of a posting with a given property of their post, in item order. -/
def postedWhere (r : Req) (items : List Item) (f : Item → Int → Bool → Bool) : List Item :=
  ((items.zipIdx).filter fun x => f x.1 (postedNumber r x.2) (faultMarker r x.2)).map Prod.fst

/-- The items whose posts are saturated (R4). -/
def State.saturatedBy (u : State) (r : Req) (items : List Item) : List Item :=
  postedWhere r items fun i n marker => !marker && outOfRange (itemMax u.params i) n

/-- The items whose posts are occurrences of INPUT_CLAMPED (R4). -/
def State.clampedBy (u : State) (r : Req) (items : List Item) : List Item :=
  (u.saturatedBy r items).filter fun i => decide ((u.posted.get i).cls ≠ .clamped)

/-- The items whose posts are occurrences of INPUT_FAULT (R5). -/
def State.faultedBy (u : State) (r : Req) (items : List Item) : List Item :=
  (postedWhere r items fun _ _ marker => marker).filter fun i => decide ((u.posted.get i).cls ≠ .fault)

/-- The entry of an item after a post of number `n`, with or without the fault marker (R3 to R5). -/
def PostedItem.posted (x : PostedItem) (now : Stamp) (p : Params) (top : Nat) (n : Int) (marker : Bool) :
    PostedItem :=
  if marker then { x with cls := .fault, postTime := now, hold := some ⟨now, p.tHold⟩, fresh := none }
  else
    let v := if n < 0 then 0 else if (top : Int) < n then top else n.toNat
    { cls := if 0 ≤ n ∧ n ≤ top then .valid else .clamped
      last := some v, postTime := now, good := some ⟨v, now⟩
      fresh := some ⟨now, p.tFresh⟩, hold := some ⟨now, p.tHold⟩, goodHold := some ⟨now, p.tHold⟩ }

/-! What a write of an entry leaves -/

/-- An entry after an accepted write that changes it: the field replaced; after a write of the members
field LINK_LOSS is taken from the new members; after one of the members or a remap field the state is
derived anew (R47, R49, R54). -/
def State.writtenEntry (u : State) (e : Entry) (f : Field) (v : Nat) : Entry :=
  let w := e.write f v
  match f with
  | .members =>
    let c : Entry := { w with linkLoss := u.lossAmong w.members }
    { c with state := c.derive }
  | .remapStand | .remapLinkLoss | .remapLockout => { w with state := w.derive }
  | .ceiling | .floor | .riseStep | .policy => w

/-- The bound that a write of an electric entry carries in a reduction, with the reason of the cut: the
state bound where the state has changed, a new ceiling, or a new floor in FLOOR (R50, R51, Table 3-6,
Table 4-9). -/
def electricWriteBound (e e' : Entry) (f : Field) : Option (Nat × Reason) :=
  match f with
  | .ceiling => some (e'.ceiling, .ceiling)
  | .floor => if e'.state = .floor then some (e'.floor, .state) else none
  | .members | .remapStand | .remapLinkLoss | .remapLockout =>
    (electricChangeBound e e').map fun x => (x, .state)
  | .riseStep | .policy => none

/-- The bound that a write of an air entry carries in a reduction (R50, R51, Table 3-6). -/
def airWriteBound (pServiceMax : Nat) (e e' : Entry) (f : Field) : Option Nat :=
  match f with
  | .ceiling => some (min e'.ceiling pServiceMax)
  | .members | .remapStand | .remapLinkLoss | .remapLockout => airChangeBound pServiceMax e e'
  | .floor | .riseStep | .policy => none

/-- `t` is `u` after an accepted write of a field of EA_k: the entry, and the cut that a bound below the
present command brings (R49 to R52, R54, R79). -/
structure ElectricWritten (u t : State) (k : Axle) (f : Field) (v : Nat) : Prop where
  entry : t.res.electric.get k = u.writtenEntry (u.res.electric.get k) f v
  others : (∀ j, j ≠ k → t.res.electric.get j = u.res.electric.get j) ∧ t.res.air = u.res.air
  cut : ∀ b why, electricWriteBound (u.res.electric.get k) (t.res.electric.get k) f = some (b, why) →
    b < u.command k → b < (u.blend.record.axles.get k).target →
      t.blend.record = { u.blend.record with
        revision := oneMore u.blend.record.revision
        axles := u.blend.record.axles.set k ⟨b, b, false, why⟩ }
  kept : (∀ b why, electricWriteBound (u.res.electric.get k) (t.res.electric.get k) f = some (b, why) →
    u.command k ≤ b ∨ (u.blend.record.axles.get k).target ≤ b) → t.blend.record = u.blend.record
  same : t = (u.setRes t.res).setRecord t.blend.record

/-- `t` is `u` after an accepted write of a field of AT_x, as `ElectricWritten`; while emergency is in
force a bound above 0 leaves a pressure target at P_EMER as it is (R52, R80). -/
structure AirWritten (u t : State) (x : Truck) (f : Field) (v : Nat) : Prop where
  entry : t.res.air.get x = u.writtenEntry (u.res.air.get x) f v
  others : (∀ y, y ≠ x → t.res.air.get y = u.res.air.get y) ∧ t.res.electric = u.res.electric
  cut : ∀ b, airWriteBound u.params.pServiceMax (u.res.air.get x) (t.res.air.get x) f = some b →
    b < u.pressure x → b < (u.blend.record.trucks.get x).target →
    ¬(u.demand.emergency.any = true ∧ 0 < b ∧ (u.blend.record.trucks.get x).target = u.params.pEmer) →
      t.blend.record = { u.blend.record with
        revision := oneMore u.blend.record.revision
        trucks := u.blend.record.trucks.set x
          { u.blend.record.trucks.get x with target := b, command := b, ramping := false } }
  kept : (∀ b, airWriteBound u.params.pServiceMax (u.res.air.get x) (t.res.air.get x) f = some b →
    u.pressure x ≤ b ∨ (u.blend.record.trucks.get x).target ≤ b ∨
      (u.demand.emergency.any = true ∧ 0 < b ∧
        (u.blend.record.trucks.get x).target = u.params.pEmer)) →
    t.blend.record = u.blend.record
  same : t = (u.setRes t.res).setRecord t.blend.record

/-! What a blend computation writes -/

/-- The state term of an axle's cap (Table 4-1). -/
def State.capTerm (s : State) (k : Axle) : Nat :=
  match (s.res.electric.get k).state with
  | .active => (s.res.electric.get k).ceiling
  | .frozen => s.command k
  | .floor => (s.res.electric.get k).floor
  | .off => 0

/-- The cap C_k (Table 4-1, R61). -/
def State.capOf (s : State) (k : Axle) : Nat :=
  if (s.res.electric.get k).state = .off then 0
  else min (s.capTerm k) (min (s.posted.availability k) (s.slide.axles.get k).limit)

/-- The share of axle `k` by the water-filling method (R63). -/
def State.axleShare (s : State) (k : Axle) : Share :=
  shareOf (waterFill s.demand.dTot (allAxles.map fun j => ⟨axleNo j, s.capOf j⟩)) (axleNo k)

/-- The effort of a pressure for truck `x` (R67). -/
def State.effortOf (s : State) (x : Truck) (p : Nat) : Nat :=
  if s.params.pZero.get x < p then s.params.gain.get x * (p - s.params.pZero.get x) / 100 else 0

/-- The air cap of truck `x` (Table 4-3, R67, R68). -/
def State.airCapOf (s : State) (x : Truck) : Nat :=
  let byState :=
    match (s.res.air.get x).state with
    | .active | .floor => s.effortOf x (s.airBound x)
    | .frozen => s.effortOf x (s.pressure x)
    | .off => 0
  match (s.slide.trucks.get x).action with
  | .none => byState
  | .keep => min byState (s.effortOf x (s.slide.trucks.get x).held)
  | .dump => 0

/-- The air share of truck `x` when `left` is to be shared (R69). -/
def State.airShareOf (s : State) (left : Nat) (x : Truck) : Nat :=
  (shareOf (waterFill left (allTrucks.map fun y => ⟨truckNo y, s.airCapOf y⟩)) (truckNo x)).amount

/-- Stages 1 to 5 of R71 for truck `x` with air share `a` (R70, R71); `up` is the rounded-up indicator. -/
def State.pressureStages (s : State) (x : Truck) (a : Nat) (up : Bool) : Nat :=
  let one := if a = 0 then 0 else s.params.pZero.get x + (100 * a / s.params.gain.get x + bit up)
  let two := max one (s.posted.indepFloor x)
  let three := if (s.res.air.get x).state = .floor then max two (s.res.air.get x).floor else two
  let four := min three (s.airBound x)
  let four' := if (s.res.air.get x).state = .frozen then min four (s.pressure x) else four
  match (s.slide.trucks.get x).action with
  | .none => four'
  | .keep => min four' (s.slide.trucks.get x).held
  | .dump => 0

/-- Truck `x` is at P_EMER: emergency in force, its resource not OFF and its action not DUMP (R71
stage 6). -/
def State.atEmergencyPressure (s : State) (x : Truck) : Bool :=
  s.demand.emergency.any && decide ((s.res.air.get x).state ≠ .off) &&
    decide ((s.slide.trucks.get x).action ≠ .dump)

/-! Speeds -/

/-- The distance figure of R91 for `n` tooth intervals of axle `k` over a span of `span` µs, `span` not 0. -/
def State.toothSpeed (s : State) (k : Axle) (n span : Nat) : Nat :=
  n * s.params.circ.get k * 360000 / (s.params.teeth * span)

/-- Axle `k`'s speed is VALID and its slide state NORMAL or RECOVERING (R97). -/
def State.reference (s : State) (k : Axle) : Prop :=
  (s.speed.axles.get k).cls = .valid ∧
    ((s.slide.axles.get k).state = .normal ∨ (s.slide.axles.get k).state = .recovering)

/-- The rest condition of R99. -/
def State.restCondition (s : State) : Prop :=
  2 ≤ (allAxles.filter fun k => decide ((s.speed.axles.get k).cls = .valid)).length ∧
    (∀ k, (s.speed.axles.get k).cls = .valid → (s.speed.axles.get k).speed = 0) ∧ s.speed.vref = 0

/-- Axle `k` after the handover of a rising edge stamped `time` (R89). -/
def SpeedAxle.withEdge (x : SpeedAxle) (time now : Stamp) (zeroTime : Nat) : SpeedAxle :=
  let h := (x.history ++ [time]).drop ((x.history ++ [time]).length - 2)
  { x with
    edges := x.edges + 1
    firstEdge := if x.edges = 0 then time else x.firstEdge
    lastEdge := time
    history := h
    zero := some ⟨now, zeroTime⟩
    openMark := if h.length = 2 then false else x.openMark }

/-! Slides -/

/-- The creep of axle `k` (R107). -/
def State.creepNow (s : State) (k : Axle) : Nat :=
  let v := (s.speed.axles.get k).speed
  if v < s.speed.vref then 1000 * (s.speed.vref - v) / s.speed.vref else 0

/-- The onset history of axle `k` without the entries more than LOCK_WINDOW old (R116). -/
def State.keptHistory (s : State) (k : Axle) : List Stamp :=
  (s.slide.axles.get k).history.dropWhile fun t => decide (s.params.lockWindow * 1000 < (s.now - t).toNat)

/-- What a slide onset of axle `k` leaves (R115). -/
def State.Onset (s : State) (k : Axle) (y : SlideAxle) : Prop :=
  y.history = s.keptHistory k ++ [s.now] ∧
    if s.params.lockCount ≤ (s.keptHistory k).length + 1 then y.state = .lockout ∧ y.limit = 0
    else y.state = .sliding ∧ y.limit = s.command k * s.params.cutFactor / 1000

/-- Axle `k` without an onset: its history only loses old entries, and it has the state and limit given. -/
def State.Goes (s : State) (k : Axle) (y : SlideAxle) (state : SlideState) (limit : Nat) : Prop :=
  y.history = s.keptHistory k ∧ y.state = state ∧ y.limit = limit

/-- Some axle of truck `x` is in one of the given slide states. -/
def State.anySlide (s : State) (x : Truck) (states : List SlideState) : Bool :=
  (axlesOf x).any fun k => states.contains (s.slide.axles.get k).state

/-- The action that R120 gives truck `x`. -/
def State.actionFor (s : State) (x : Truck) : Action :=
  if s.anySlide x [.sliding] && !(s.slide.trucks.get x).exhausted then .dump
  else if s.anySlide x [.suspect, .recovering, .sliding] then .keep
  else .none

/-- The accumulated time at which truck `x`'s dump timer stands when the truck leaves DUMP: the time so far,
and where its expiry is due and not taken, the last whole millisecond short of DUMP_MAX (R122, R123;
log 22). -/
def SlideTruck.stoppedAt (x : SlideTruck) (now : Stamp) : Nat :=
  match x.dumpRun with
  | some r => min (r.limit - 1) (x.dumpAcc + (now - r.since).toNat)
  | none => x.dumpAcc

/-- What re-deriving truck `x`'s action in `b` leaves of the truck and its dump line in `t`, with the whole
record of the truck for each transition (R120 to R123). An entry into KEEP holds the pressure command; one
into DUMP starts the timer from the accumulated time; leaving DUMP stops it, with the dump-exhausted mark as
it was (log 22); NONE clears the accumulated time and the mark. -/
structure ActionSettled (b t : State) (x : Truck) : Prop where
  other : ∀ y, y ≠ x → t.slide.trucks.get y = b.slide.trucks.get y ∧ t.dump.get y = b.dump.get y
  same : b.actionFor x = (b.slide.trucks.get x).action →
    t.slide.trucks = b.slide.trucks ∧ t.dump = b.dump
  action : (t.slide.trucks.get x).action = b.actionFor x
  line : b.actionFor x ≠ (b.slide.trucks.get x).action → t.dump.get x = decide (b.actionFor x = .dump)
  keepFromNone : b.actionFor x = .keep → (b.slide.trucks.get x).action = .none →
    t.slide.trucks.get x = { b.slide.trucks.get x with action := .keep, held := b.pressure x }
  keepFromDump : b.actionFor x = .keep → (b.slide.trucks.get x).action = .dump →
    t.slide.trucks.get x = { b.slide.trucks.get x with
      action := .keep, held := b.pressure x
      dumpAcc := (b.slide.trucks.get x).stoppedAt b.now, dumpRun := none }
  dump : b.actionFor x = .dump → (b.slide.trucks.get x).action ≠ .dump →
    t.slide.trucks.get x = { b.slide.trucks.get x with
      action := .dump, dumpRun := some ⟨b.now, b.params.dumpMax⟩, exhausted := false }
  noneFromKeep : b.actionFor x = .none → (b.slide.trucks.get x).action = .keep →
    t.slide.trucks.get x = { b.slide.trucks.get x with action := .none, dumpAcc := 0, exhausted := false }
  noneFromDump : b.actionFor x = .none → (b.slide.trucks.get x).action = .dump →
    t.slide.trucks.get x = { b.slide.trucks.get x with
      action := .none, dumpAcc := 0, dumpRun := none, exhausted := false }

/-- The reduction that truck `x`'s entry from action `old` into its present action sends: the held pressure
at an entry into KEEP, 0 at one into DUMP (R121, R122). -/
def ActionFelt (x : Truck) (old : Action) (a t : State) : Prop :=
  let y := a.slide.trucks.get x
  if y.action = old then t = a
  else
    match y.action with
    | .none => t = a
    | .keep => TruckReduced x y.held a t
    | .dump => TruckReduced x 0 a t

/-- `t` is `a` after axle `k`'s slide state is reported to the Effort Resource Table: the conditions LOCKOUT
of EA_k and of its truck's air resource follow, with exactly the cuts that their states call for, and
BRK_FAULT; the other entries stay (R36, R48, R49, R50). -/
structure LockoutFelt (k : Axle) (a t : State) : Prop where
  electric : ∀ j, t.res.electric.get j =
    if j = k then
      let e : Entry := { a.res.electric.get k with lockout := a.lockedOut k }
      { e with state := e.derive }
    else a.res.electric.get j
  air : ∀ y, t.res.air.get y =
    if y = truckOf k then
      let e : Entry := { a.res.air.get y with lockout := a.truckLockedOut y }
      { e with state := e.derive }
    else a.res.air.get y
  cuts : TableCuts a t
  brake : t.brkFault = t.brakeFaulty
  same : t = ((a.setRes t.res).setBlend t.blend).setBrkFault t.brkFault

/-! What a lost link leaves (R178) -/

/-- `t` is `a` after the Posted Value Table has taken the loss of link `l`: each item of the link is ABSENT,
and what changed is handed on (R8, R12). -/
def ItemsLost (l : LinkId) (a t : State) : Prop :=
  ∃ p : Posted,
    (∀ i, p.get i = if itemOwner i = l then (a.posted.get i).cleared else a.posted.get i) ∧
    Handed (a.setPosted p) t a.posted

/-- `t` is `a` after the Demand Unit has taken the loss of link `l`: the link leaves the maintenance request
set, with the mode re-evaluated, and BRK_FAULT follows for P and A (R31, R36). -/
def RequestLost (l : LinkId) (a t : State) : Prop :=
  ∃ m, ModeSettled (a.setDemand { a.demand with maint := a.demand.maint.put l false }) m ∧
    t = match l with
      | .m => m
      | .p | .a => m.setBrkFault m.brakeFaulty

/-- `t` is `a` after the Effort Resource Table has taken a change of link `l`'s state: the condition LINK_LOSS
of each entry with the link among its members follows, with exactly the cuts that its state calls for
(R47, R49, R50). -/
structure LossFelt (l : LinkId) (a t : State) : Prop where
  electric : ∀ k, t.res.electric.get k =
    if (a.res.electric.get k).members.has l then
      let e : Entry := { a.res.electric.get k with
        linkLoss := a.lossAmong (a.res.electric.get k).members }
      { e with state := e.derive }
    else a.res.electric.get k
  air : ∀ y, t.res.air.get y =
    if (a.res.air.get y).members.has l then
      let e : Entry := { a.res.air.get y with linkLoss := a.lossAmong (a.res.air.get y).members }
      { e with state := e.derive }
    else a.res.air.get y
  cuts : TableCuts a t
  same : t = (a.setRes t.res).setBlend t.blend

/-- `e'` is `e` but for its conditions STAND and LINK_LOSS and its state. -/
def Entry.SameWritten (e e' : Entry) : Prop :=
  e' = { e with stand := e'.stand, linkLoss := e'.linkLoss, state := e'.state }

/-- `t` is `s` after the loss of link `l`, with the trigger's detail: the link is DOWN, with the fields of
R178 step 1 replaced and a transfer in progress and DOUT as they were; the Posted Value Table, the Demand Unit and the Effort Resource Table take the loss one after another in some order, and the
trigger is sent and event 11 counted (R178; R8, R25, R29, R31, R36, R47; log 5). -/
structure LinkLost (s t : State) (l : LinkId) (detail : Byte) : Prop where
  taken : ∃ m, InSomeOrder [ItemsLost l, RequestLost l, LossFelt l] (s.setPort l (t.port l)) m ∧
    t = (m.setSent t.sent).setCounters t.counters
  port : t.port l = { s.port l with
    state := .down, join := 0, fail := 0, timeout := none, response := ⟨0, 0, .none, {}⟩ }
  others : ∀ l', l' ≠ l → t.port l' = s.port l'
  owned : ∀ i, itemOwner i = l → t.posted.get i = (s.posted.get i).cleared
  kept : ∀ i, itemOwner i ≠ l → t.posted.get i = s.posted.get i
  asked : t.demand.maint = s.demand.maint.put l false
  mode : t.demand.mode = t.evaluatedMode
  penalty : t.demand.penalty = s.demand.penalty
  emergency : t.demand.emergency = s.demand.emergency
  electric : ∀ k, (s.res.electric.get k).SameWritten (t.res.electric.get k)
    ∧ ((s.res.electric.get k).members.has l = true →
      (t.res.electric.get k).linkLoss = true ∧ (t.res.electric.get k).state = (t.res.electric.get k).derive)
  air : ∀ x, (s.res.air.get x).SameWritten (t.res.air.get x)
    ∧ ((s.res.air.get x).members.has l = true →
      (t.res.air.get x).linkLoss = true ∧ (t.res.air.get x).state = (t.res.air.get x).derive)
  cuts : OnlyCut s.blend t.blend
  brake : t.brkFault = match l with
    | .m => s.brkFault
    | .p | .a => true
  trigger : t.sent = s.sent ++ [⟨linkLossCause l, detail⟩]
  counted : t.counters = (s.count 11).counters
  frame : t.exc = s.exc ∧ t.tach = s.tach ∧ t.speed = s.speed ∧ t.slide = s.slide ∧ t.inc = s.inc
    ∧ t.mem = s.mem ∧ t.diag = s.diag ∧ t.params = s.params ∧ t.dump = s.dump ∧ t.clock = s.clock
    ∧ t.phase = s.phase ∧ t.memLost = s.memLost ∧ t.pending = s.pending

/-! What a write of a parameter leaves -/

/-- A running timer of the given start has completed the run `v`. -/
def State.completes (u : State) (t : Option Timer) (v : Nat) : Prop :=
  ∃ x, t = some x ∧ v ≤ (u.now - x.start).toNat

/-- A running timer with the full run `v`; a stopped one stays stopped. -/
def placed (t : Option Timer) (v : Nat) : Option Timer :=
  match t with
  | some x => some ⟨x.start, v⟩
  | none => none

/-- `t` is `u` after an accepted write of `v` to parameter `i`, beside the parameter itself: what R9, R35,
R82 to R84, R102, R103, R126, R149 and R177 say of timers and figures at the write. -/
def ParamWritten (u t : State) (i : ParamId) (v : Nat) : Prop :=
  let b := u.setParams (u.params.set v i)
  match i with
  | .tFresh =>
    let due := fun j : Item => u.completes (u.posted.get j).fresh v ∧
      ((u.posted.get j).cls = .valid ∨ (u.posted.get j).cls = .clamped)
    (∀ j,
      let x := u.posted.get j
      (due j → t.posted.get j = { x with cls := .stale, fresh := none }) ∧
      (¬due j → t.posted.get j = { x with fresh := placed x.fresh v })) ∧
    ∃ js : List Item, (∀ j, j ∈ js ↔ due j) ∧ js.Nodup ∧
      Chained (js.map fun j => fun a m => Raised a m .stale (itemCode j)) (b.setPosted t.posted) t
  | .tHold =>
    (∀ j,
      let x := u.posted.get j
      let expires := u.completes x.hold v ∧ (x.cls = .stale ∨ x.cls = .fault)
      let unbacked := u.completes x.goodHold v ∧ x.cls ≠ .valid ∧ x.cls ≠ .clamped
      (expires → t.posted.get j = x.cleared) ∧
      (¬expires → t.posted.get j =
        { x with hold := placed x.hold v, goodHold := (t.posted.get j).goodHold }) ∧
      (¬expires → unbacked → (t.posted.get j).goodHold = none) ∧
      (¬expires → ¬unbacked → (t.posted.get j).goodHold = placed x.goodHold v)) ∧
    t = ((((b.setPosted t.posted).setDemand t.demand).setRes t.res).setBlend t.blend).setChoice t.choice ∧
    ∃ (p : Posted) (js ks : List Item),
      (∀ j, p.get j = { u.posted.get j with
        hold := placed (u.posted.get j).hold v, goodHold := placed (u.posted.get j).goodHold v }) ∧
      (∀ j, j ∈ js ↔ u.completes (u.posted.get j).hold v) ∧ js.Nodup ∧
      (∀ j, j ∈ ks ↔ u.completes (u.posted.get j).goodHold v) ∧ ks.Nodup ∧
      InSomeOrder (js.map HoldTaken ++ ks.map GoodHoldTaken) (b.setPosted p) t
  | .dMax | .penEffort => ModeSettled (b.recomputed b.demand) t
  | .pServiceMax =>
    let cut := fun x : Truck =>
      let y := u.blend.record.trucks.get x
      decide (b.airBound x < y.command) && decide (b.airBound x < y.target) &&
        !(u.demand.emergency.any && decide (0 < b.airBound x) && decide (y.target = u.params.pEmer))
    (∀ x, t.blend.record.trucks.get x =
      let y := u.blend.record.trucks.get x
      if cut x then { y with target := b.airBound x, command := b.airBound x, ramping := false } else y) ∧
    t.blend.record.revision = max u.blend.record.revision
      (min 65535 (u.blend.record.revision + (allTrucks.filter cut).length)) ∧
    t = b.setRecord { u.blend.record with
      revision := t.blend.record.revision, trucks := t.blend.record.trucks }
  | .pEmer =>
    let cut := fun x : Truck => decide (v < (u.blend.record.trucks.get x).target)
    (∀ x, t.blend.record.trucks.get x =
      let y := u.blend.record.trucks.get x
      if cut x then
        { y with target := v, command := min y.command v, ramping := decide (y.command < v) }
      else y) ∧
    t.blend.record.revision = max u.blend.record.revision
      (min 65535 (u.blend.record.revision + (allTrucks.filter cut).length)) ∧
    t = b.setRecord { u.blend.record with
      revision := t.blend.record.revision, trucks := t.blend.record.trucks }
  | .shortTime =>
    (u.completes u.blend.short v → ∃ m,
      Raised (b.setBlend { u.blend with short := none, shortRaised := true }) m .shortfall 0 ∧
      t = m.count 15) ∧
    (¬u.completes u.blend.short v → t = b.setBlend { u.blend with short := placed u.blend.short v })
  | .devTime =>
    let due := fun x : Truck =>
      (u.blend.dev.get x).run.isOn = true ∧ v ≤ (u.blend.dev.get x).run.sofar u.now
    (∀ x, (due x → t.blend.dev.get x = ⟨.stopped, true⟩) ∧
      (¬due x → t.blend.dev.get x = u.blend.dev.get x)) ∧
    ∃ xs : List Truck, (∀ x, x ∈ xs ↔ due x) ∧ xs.Nodup ∧
      Chained (xs.map fun x => fun a m => Raised a m .deviation (truckNo x))
        (b.setBlend { u.blend with dev := t.blend.dev }) t
  | .zeroTime =>
    (∀ k,
      let x := u.speed.axles.get k
      (u.completes x.zero v →
        t.speed.axles.get k = { x with zero := none, history := [], zeroDeclared := true }) ∧
      (¬u.completes x.zero v → t.speed.axles.get k = { x with zero := placed x.zero v })) ∧
    t = (b.setSpeed { u.speed with axles := t.speed.axles }).setChoice t.choice
  | .openTime =>
    (∀ k,
      let x := u.speed.axles.get k
      (u.completes x.openTimer v → t.speed.axles.get k =
        { x with openTimer := none, openMark := true, history := [], speed := 0, cls := .fault }) ∧
      (¬u.completes x.openTimer v →
        t.speed.axles.get k = { x with openTimer := placed x.openTimer v })) ∧
    ∃ ks : List Axle, (∀ k, k ∈ ks ↔ u.completes (u.speed.axles.get k).openTimer v ∧
        (u.speed.axles.get k).cls ≠ .fault) ∧ ks.Nodup ∧
      Chained (ks.map fun k => fun a m => Raised a m .tach (axleNo k))
        (b.setSpeed { u.speed with axles := t.speed.axles }) t
  | .stillTime =>
    (u.completes u.speed.still v →
      ModeSettled (b.setSpeed { u.speed with standstill := true, still := none }) t) ∧
    (¬u.completes u.speed.still v → t = b.setSpeed { u.speed with still := placed u.speed.still v })
  | .lockCount =>
    (∀ k,
      let x := u.slide.axles.get k
      let n := if x.state = .lockout then v else v - 1
      t.slide.axles.get k = { x with history := x.history.drop (x.history.length - n) }) ∧
    t = b.setSlide { u.slide with axles := t.slide.axles }
  | .linkTimeout l =>
    (u.completes (u.port l).timeout v → LinkLost b t l 1) ∧
    (¬u.completes (u.port l).timeout v →
      t = b.setPort l { u.port l with timeout := placed (u.port l).timeout v })
  | .tBlend | .pZero _ | .gain _ | .shortThr | .devTol | .tachRate | .window | .teeth | .circ _
  | .noiseLimit | .openSpeed | .decay | .rise | .vMin | .sSuspect | .sSlide | .sRelease | .aDet
  | .suspectMax | .recoverTime | .slideMax | .lockWindow | .cutFactor | .recoverRate | .dumpMax
  | .samplePeriod | .preCount | .postCount | .ackInFreeze => t = b

/-! Stored words and incidents -/

/-- A stored pair with bit `n` of its 39 inverted: data bits 0 to 31, then check bits 0 to 6 (R153). -/
def MemWord.flip (w : MemWord) (n : Nat) : MemWord :=
  if n < 32 then { w with data := w.data ^^^ BitVec.ofNat 32 (2 ^ n) }
  else { w with check := w.check ^^^ BitVec.ofNat 7 (2 ^ (n - 32)) }

/-- `t` is `u` after a change of the recorder and of Record Memory that counts the given events. -/
def RecorderOnly (u t : State) (events : List Nat) : Prop :=
  t = ((u.setInc t.inc).setMem t.mem).setCounters (events.foldl State.count u).counters

/-- `t` is `v` with slot `i` made DAMAGED: word 6 written DAMAGED with the marks that `six` read, or no
marks where it read uncorrectable; the copy's state, the armed set and a capture in the slot follow
(R156). -/
structure SlotDamaged (v t : State) (i : Slot) (six : Checked) : Prop where
  only : RecorderOnly v t []
  recorder : t.inc = { v.inc with
    slots := v.inc.slots.set i { v.inc.slots.get i with state := .damaged }
    capture := match v.inc.capture with
      | some c => if c.slot = i then none else some c
      | none => none
    armed := v.inc.armed.set i false }
  mem : ∀ a, t.mem.read a =
    if a = slotAddr i 6 then
      protect (join16 4 (if six.cls = .uncorrectable then 0 else lo16 six.data))
    else v.mem.read a

/-- Slot `i` is the one chosen for a new incident (R136). -/
def Chosen (u : State) (i : Slot) : Prop :=
  (u.slotState i = .free ∧ ∀ j, slotNo j < slotNo i → u.slotState j ≠ .free) ∨
  ((∀ j, u.slotState j ≠ .free) ∧ u.inc.freeze = false ∧ u.slotState i = .damaged ∧
    ∀ j, slotNo j < slotNo i → u.slotState j ≠ .damaged) ∨
  ((∀ j, u.slotState j ≠ .free ∧ u.slotState j ≠ .damaged) ∧ u.inc.freeze = false ∧
    u.slotState i = .read ∧ ∀ j, u.slotState j = .read → u.slotSeq i ≤ u.slotSeq j)

/-- No slot is chosen (R136). -/
def NoneChosen (u : State) : Prop :=
  ∀ j, u.slotState j ≠ .free ∧
    (u.inc.freeze = false → u.slotState j ≠ .damaged ∧ u.slotState j ≠ .read)

/-- `t` is `u` after the opening of an incident in slot `i` (R137, R143). -/
structure Opened (u t : State) (i : Slot) (c : Cause) (detail : Byte) : Prop where
  only : RecorderOnly u t [12]
  recorder : t.inc = { u.inc with
    nextSeq := u.inc.nextSeq + 1
    slots := u.inc.slots.set i
      ⟨if u.params.postCount = 0 then .unread else .capturing, some u.inc.nextSeq⟩
    capture := if u.params.postCount = 0 then none else some ⟨i, 0, u.params.postCount⟩
    freeze := u.inc.freeze || decide (c = .emergency) }
  snaps : ∀ n < min u.params.preCount u.inc.ring.length, ∀ w < 16,
    ∃ x, u.inc.ring[u.inc.ring.length - min u.params.preCount u.inc.ring.length + n]? = some x ∧
      t.mem.read (snapAddr i n w) = protect (x.words.getD w 0)
  header : t.mem.read (slotAddr i 0) = protect u.inc.nextSeq ∧
    t.mem.read (slotAddr i 1) = protect u.now ∧
    t.mem.read (slotAddr i 2) =
      protect (join16 (BitVec.ofNat 16 (causeCode c * 256 + detail.toNat)) 0) ∧
    t.mem.read (slotAddr i 3) = protect 0 ∧
    t.mem.read (slotAddr i 4) = protect (join16 1 0) ∧
    t.mem.read (slotAddr i 5) =
      protect (join16 (BitVec.ofNat 16 (min u.params.preCount u.inc.ring.length)) 0) ∧
    t.mem.read (slotAddr i 6) = protect (join16 (if u.params.postCount = 0 then 2 else 1) 0)
  retention : t.mem.read (retentionAddr 1) = protect (u.inc.nextSeq + 1) ∧
    t.mem.read (retentionAddr 2) =
      if c = .emergency ∧ u.inc.freeze = false then protect 1 else u.mem.read (retentionAddr 2)
  others : ∀ a, a ≠ retentionAddr 1 → a ≠ retentionAddr 2 →
    (a < slotAddr i 0 ∨ slotAddr i 7 + 16 * min u.params.preCount u.inc.ring.length ≤ a) →
    t.mem.read a = u.mem.read a

/-- `t` is `u` after a loss (R138): the number consumed, unless it is the last one (R135). -/
structure IncidentLost (u t : State) : Prop where
  only : RecorderOnly u t [13]
  recorder : t.inc = { u.inc with
    lost := true
    nextSeq := if u.inc.nextSeq = 4294967295#32 then u.inc.nextSeq else u.inc.nextSeq + 1 }
  mem : ∀ a, t.mem.read a =
    if u.inc.nextSeq ≠ 4294967295#32 ∧ a = retentionAddr 1 then protect (u.inc.nextSeq + 1)
    else u.mem.read a

/-- `t` is `u` after a trigger merged into the capturing slot `i`, with the outcome code given (R140,
R143, R156). -/
structure Merged (u t : State) (i : Slot) (c : Cause) (detail : Byte) (code : Nat) : Prop where
  bad :
    let (cs, v) := u.readWords [slotAddr i 2, slotAddr i 3, slotAddr i 4]
    anyBad cs = true → code = 6 ∧
      SlotDamaged (v.readWord (slotAddr i 6)).2 t i (v.readWord (slotAddr i 6)).1
  good :
    let (cs, v) := u.readWords [slotAddr i 2, slotAddr i 3, slotAddr i 4]
    let entries := [hi16 (dataAt cs 0), lo16 (dataAt cs 0), hi16 (dataAt cs 1), lo16 (dataAt cs 1)]
    let n := (hi16 (dataAt cs 2)).toNat
    let further := (lo16 (dataAt cs 2)).toNat
    let listed := ∃ e ∈ entries.take n, (hi8 e).toNat = causeCode c
    let entry := BitVec.ofNat 16 (causeCode c * 256 + detail.toNat)
    anyBad cs = false →
      (listed → code = 4 ∧ t = v) ∧
      (¬listed → n < 4 → code = 2 ∧ RecorderOnly v t [14] ∧
        t.inc = { v.inc with freeze := v.inc.freeze || decide (c = .emergency) } ∧
        (∀ a, t.mem.read a =
          if a = slotAddr i 2 then
            protect (join16 ((entries.set n entry).getD 0 0) ((entries.set n entry).getD 1 0))
          else if a = slotAddr i 3 then
            protect (join16 ((entries.set n entry).getD 2 0) ((entries.set n entry).getD 3 0))
          else if a = slotAddr i 4 then
            protect (join16 (BitVec.ofNat 16 (n + 1)) (BitVec.ofNat 16 further))
          else if a = retentionAddr 2 ∧ c = .emergency ∧ v.inc.freeze = false then protect 1
          else v.mem.read a)) ∧
      (¬listed → n = 4 → further ≤ 255 → code = 3 ∧ RecorderOnly v t [14] ∧ t.inc = v.inc ∧
        ∀ a, t.mem.read a =
          if a = slotAddr i 4 then protect (join16 4 (BitVec.ofNat 16 (min 255 (further + 1))))
          else v.mem.read a)

/-- `t` is `u` after the recorder has taken a trigger, with the outcome code, the slot and the lower half
of the sequence number that MARK answers (R131, R132, R135, R136, R138, R140). -/
structure TriggerTaken (u t : State) (c : Cause) (detail : Byte) (code slot : Nat) (seq : Half) :
    Prop where
  ignored : u.inc.enabled.getLsbD (causeCode c) = false → t = u ∧ code = 0 ∧ slot = 0 ∧ seq = 0
  lost : u.inc.enabled.getLsbD (causeCode c) = true → u.inc.capture = none →
    u.inc.nextSeq = 4294967295#32 ∨ NoneChosen u →
      IncidentLost u t ∧ code = 5 ∧ slot = 0 ∧ seq = lo16 u.inc.nextSeq
  opened : u.inc.enabled.getLsbD (causeCode c) = true → u.inc.capture = none →
    u.inc.nextSeq ≠ 4294967295#32 → ¬NoneChosen u →
      ∃ i, Chosen u i ∧ Opened u t i c detail ∧ code = 1 ∧ slot = slotNo i ∧ seq = lo16 u.inc.nextSeq
  merged : ∀ cap, u.inc.enabled.getLsbD (causeCode c) = true → u.inc.capture = some cap →
    Merged u t cap.slot c detail code ∧ slot = slotNo cap.slot ∧ seq = lo16 (u.slotSeq cap.slot)

/-- `x` is the snapshot of `s`: each field as its owner holds it (Table 7-1, R129). -/
structure Pictures (s : State) (x : Snapshot) : Prop where
  general : x.stamp = s.now ∧ x.mode = s.demand.mode ∧ (∀ l, x.links.get l = s.linkState l)
  record : x.dTot = s.blend.record.dTot ∧ x.eCred = s.blend.record.eCred ∧
    x.period = s.blend.record.period ∧ x.revision = s.blend.record.revision
  axles : ∀ k, x.commands.get k = s.command k ∧
    x.speeds.get k = (if (s.speed.axles.get k).cls = .absent then 0 else (s.speed.axles.get k).speed) ∧
    x.speedCls.get k = (s.speed.axles.get k).cls ∧ x.slide.get k = (s.slide.axles.get k).state
  trucks : ∀ y, x.pressures.get y = s.pressure y ∧
    (x.achieved.get y).cls = (s.posted.ap.get y).cls ∧
    ((s.posted.ap.get y).cls = .fault ∨ (s.posted.ap.get y).cls = .absent →
      (x.achieved.get y).value = 0) ∧
    ((s.posted.ap.get y).cls ≠ .fault → (s.posted.ap.get y).cls ≠ .absent →
      (x.achieved.get y).value = (s.posted.ap.get y).last.getD 0) ∧
    x.actions.get y = (s.blend.record.trucks.get y).action
  sets : x.vref = s.speed.vref ∧ x.penalty = s.demand.penalty ∧ x.emergency = s.demand.emergency ∧
    ∀ k, x.flags.get k = (s.exc.get k).source.isSome

/-- `t` is `b` after the snapshot `x` has been appended to the capture in progress, if there is one (R139,
R153, R156). -/
structure Appended (b t : State) (x : Snapshot) : Prop where
  idle : b.inc.capture = none → t = b
  bad : ∀ c, b.inc.capture = some c →
    let last := c.planned ≤ c.appended + 1
    let (cs, v) := b.readWords (slotAddr c.slot 5 :: if last then [slotAddr c.slot 6] else [])
    anyBad cs = true →
      (last → SlotDamaged v t c.slot (cs.getD 1 ⟨.uncorrectable, 0⟩)) ∧
      (¬last → SlotDamaged (v.readWord (slotAddr c.slot 6)).2 t c.slot
        (v.readWord (slotAddr c.slot 6)).1)
  good : ∀ c, b.inc.capture = some c →
    let last := c.planned ≤ c.appended + 1
    let (cs, v) := b.readWords (slotAddr c.slot 5 :: if last then [slotAddr c.slot 6] else [])
    let pre := hi16 (dataAt cs 0)
    anyBad cs = false →
      RecorderOnly v t [] ∧
      t.inc = (if last then
        { v.inc with
          slots := v.inc.slots.set c.slot { v.inc.slots.get c.slot with state := .unread }
          capture := none }
        else { v.inc with capture := some { c with appended := c.appended + 1 } }) ∧
      (∀ w < 16, t.mem.read (snapAddr c.slot (pre.toNat + c.appended) w) =
        protect (x.words.getD w 0)) ∧
      t.mem.read (slotAddr c.slot 5) = protect (join16 pre (BitVec.ofNat 16 (c.appended + 1))) ∧
      (last → t.mem.read (slotAddr c.slot 6) = protect (join16 2 (lo16 (dataAt cs 1)))) ∧
      ∀ a, a ≠ slotAddr c.slot 5 → (last → a ≠ slotAddr c.slot 6) →
        (∀ w < 16, a ≠ snapAddr c.slot (pre.toNat + c.appended) w) → t.mem.read a = v.mem.read a

/-- The data words of a header read that shows all seven header words, with the state code given (R147;
data word 12 where the counts fit it, log 16). -/
structure HeaderShown (w : Words) (cs : List Checked) (state : Half) : Prop where
  front : w.w1 = state ∧ w.w2 = hi16 (dataAt cs 0) ∧ w.w3 = lo16 (dataAt cs 0) ∧
    w.w4 = hi16 (dataAt cs 1) ∧ w.w5 = lo16 (dataAt cs 1)
  causes : w.w6 = hi16 (dataAt cs 2) ∧ w.w7 = lo16 (dataAt cs 2) ∧ w.w8 = hi16 (dataAt cs 3) ∧
    w.w9 = lo16 (dataAt cs 3) ∧ w.w10 = hi16 (dataAt cs 4) ∧ w.w11 = lo16 (dataAt cs 4)
  counts :
    let total := (hi16 (dataAt cs 5)).toNat * 256 + (lo16 (dataAt cs 5)).toNat
    total ≤ 65535 → w.w12 = BitVec.ofNat 16 total
  marks : w.w13 = lo16 (dataAt cs 6)

/-! What the completion of a scan leaves -/

/-- `t` is `s` after the completion of the power-on scan has put the part in service: the blend period,
window, zero and sample timers start and BRK_FAULT follows R36 (R37, R59, R104, R128). The scan itself may
change Record Memory, the lost indication, the slots' working copies, FREEZE, the next sequence number and,
by what its reads find, the counters (R154, R157 to R159); no capture begins and no slot becomes armed, and
what a DAMAGED slot had of either is gone (R156). -/
structure ScanCompleted (s t : State) : Prop where
  phase : t.phase = .running
  blend : t.blend = { s.blend with period := some ⟨s.now, s.params.tBlend⟩ }
  axles : ∀ k, t.speed.axles.get k =
    { s.speed.axles.get k with
      window := some ⟨s.now, s.params.window⟩, zero := some ⟨s.now, s.params.zeroTime⟩ }
  recorder : t.inc = { s.inc with
    sample := some ⟨s.now, s.params.samplePeriod⟩
    slots := t.inc.slots, freeze := t.inc.freeze, nextSeq := t.inc.nextSeq
    capture := t.inc.capture, armed := t.inc.armed }
  capture : t.inc.capture = s.inc.capture ∨
    t.inc.capture = none ∧ ∃ c, s.inc.capture = some c ∧ (t.inc.slots.get c.slot).state = .damaged
  armed : ∀ i, t.inc.armed.get i = s.inc.armed.get i ∨
    t.inc.armed.get i = false ∧ (t.inc.slots.get i).state = .damaged
  brake : t.brkFault = s.brakeFaulty
  same : t = ((((((((s.setPhase .running).setBlend t.blend).setSpeed
    { s.speed with axles := t.speed.axles }).setInc t.inc).setBrkFault t.brkFault).setMem t.mem).setMemLost
    t.memLost).setCounters t.counters)

/-- A stored word after a read through the check: a corrected word is written back (R154). -/
def MemWord.scrubbed (w : MemWord) : MemWord :=
  if (checkWord w).cls = .corrected then protect (checkWord w).data else w

/-- The words that the scan of an intact memory reads: the retention words and the eight headers. -/
def scannedAddrs : List Nat :=
  [retentionAddr 0, retentionAddr 1, retentionAddr 2]
    ++ (allSlots.map fun i => (List.range 7).map (slotAddr i)).flatten

/-- How many of the words that the scan reads are found corrected or uncorrectable. -/
def State.scannedAs (s : State) (c : ReadClass) : Nat :=
  (scannedAddrs.filter fun a => decide ((checkWord (s.mem.read a)).cls = c)).length

/-- A DAMAGED slot keeps the number `n`: it is one that an incident may have, and no UNREAD or READ slot and
no lower-numbered DAMAGED slot holds it (R158). -/
def State.damagedKeeps (t : State) (i : Slot) (n : Word) : Prop :=
  n ≠ 0 ∧ n ≠ 4294967295#32 ∧ ∀ j, (t.inc.slots.get j).seq = some n →
    (t.inc.slots.get j).state = .damaged ∧ slotNo i ≤ slotNo j

/-! What the resets leave -/

/-- A Link Interface is DOWN with counts 0, its timer stopped, the NONE response, and all ones on DOUT
(R184, R185). -/
structure LinkPort.Restarted (x : LinkPort) : Prop where
  state : x.state = .down
  counts : x.join = 0 ∧ x.fail = 0
  timeout : x.timeout = none
  response : x.response = ⟨0, 0, .none, {}⟩
  dout : x.shiftOut = none

/-- An item is ABSENT, its last and good values absent and its timers stopped (R2). -/
structure PostedItem.Empty (x : PostedItem) : Prop where
  cls : x.cls = .absent
  values : x.last = none ∧ x.good = none
  timers : x.fresh = none ∧ x.hold = none ∧ x.goodHold = none

/-- The Blend Unit as a reset leaves it (R85, R86). -/
structure Blend.Cleared (b : Blend) : Prop where
  numbers : b.record.period = 0 ∧ b.record.revision = 0 ∧ b.record.dTot = 0 ∧ b.record.eCred = 0
    ∧ b.record.residual = 0 ∧ b.record.emergency = false
  axles : ∀ k, b.record.axles.get k = ⟨0, 0, false, .state⟩
  trucks : ∀ t, b.record.trucks.get t = ⟨0, 0, 0, false, false, .none⟩
  worst : b.record.worst = ⟨.absent, .absent, .absent, .absent, .absent, .absent⟩
  timers : b.period = none ∧ b.short = none ∧ b.shortRaised = false ∧ ∀ t, b.dev.get t = ⟨.stopped, false⟩

/-- An axle of the Speed Unit as a reset leaves it (R104). -/
structure SpeedAxle.Cleared (x : SpeedAxle) : Prop where
  figures : x.cls = .absent ∧ x.speed = 0 ∧ x.decel = 0 ∧ x.history = [] ∧ x.edges = 0
  marks : x.zeroDeclared = false ∧ x.openMark = false ∧ x.prevTime = none
  timers : x.openTimer = none ∧ x.window = none ∧ x.zero = none

/-- The Tachometer Front End and the Speed Unit as a reset leaves them (R88, R104). -/
structure SpeedsCleared (tach : PerAxle TachInput) (u : SpeedUnit) : Prop where
  tach : ∀ k, (tach.get k).sampled = false ∧ (tach.get k).qual = none ∧ (tach.get k).noise = 0
  axles : ∀ k, (u.axles.get k).Cleared
  shared : u.vref = 0 ∧ u.firstUpdate = true ∧ u.standstill = false ∧ u.still = none

/-- `t` is the part at the release of PORST_N (R185 and the power-on rules of the chapters: R2, R18, R25,
R29, R31, R34, R58, R85, R104, R127, R131, R151, R160, R168). -/
structure AtPowerOn (t : State) : Prop where
  clock : t.phase = .scanning ∧ t.clock.ms = 0
  links : ∀ l, (t.port l).Restarted
  params : t.params = {}
  posted : ∀ i, (t.posted.get i).Empty
  exc : ∀ k, t.exc.get k = ⟨none, decide (k = .clamped ∨ k = .stale)⟩
  demand : t.demand = ⟨0, 0, ⟨0, 0⟩, {}, {}, {}, 0, 0, .run⟩
  electric : ∀ k, t.res.electric.get k =
    ⟨⟨true, false, false⟩, 1000, 0, 20, .off, .off, .off, .keep, false, true, false, .off⟩
  air : ∀ x, t.res.air.get x =
    ⟨⟨false, true, false⟩, 380, 100, 1, .floor, .off, .active, .keep, false, true, false, .off⟩
  blend : t.blend.Cleared
  speeds : SpeedsCleared t.tach t.speed
  axles : ∀ k, (t.slide.axles.get k).state = .normal ∧ (t.slide.axles.get k).limit = 1000
    ∧ (t.slide.axles.get k).history = [] ∧ (t.slide.axles.get k).comparison = none
    ∧ (t.slide.axles.get k).lastEval = none
  trucks : ∀ x, t.slide.trucks.get x = ⟨.none, 0, 0, none, false⟩
  recorder : t.inc.ring = [] ∧ t.inc.sample = none ∧ t.inc.enabled = 0x7FFF#16 ∧ t.inc.capture = none
    ∧ (∀ i, t.inc.armed.get i = false) ∧ t.inc.lost = false ∧ t.inc.restartPending = none
  diag : t.diag = ⟨0, 0⟩
  counters : ∀ n, t.counters.get n = ⟨0, 0⟩
  lines : t.brkFault = true ∧ t.dump = ⟨false, false⟩

/-- An entry after a warm restart (R57): its written fields kept or at their defaults by the restart
policy, STAND not holding, LINK_LOSS holding where it has a member, LOCKOUT as given, its state derived. -/
def Entry.restarted (default e : Entry) (lockout : Bool) : Entry :=
  let w := match e.policy with
    | .keep => e
    | .reset => default
  let c : Entry := { w with stand := false, linkLoss := w.members.any, lockout := lockout }
  { c with state := c.derive }

/-- The slots, the memory and the counters after a warm restart has ended the capture in progress, if any
(R141, R150, R156, R163). -/
structure CaptureEnded (s t : State) : Prop where
  none : s.inc.capture = none → t.inc.slots = s.inc.slots ∧ t.mem = s.mem ∧ t.counters = s.counters
  good : ∀ c, s.inc.capture = some c →
    (checkWord (s.mem.read (slotAddr c.slot 6))).cls ≠ .uncorrectable →
      t.inc.slots = s.inc.slots.set c.slot { s.inc.slots.get c.slot with state := .unread } ∧
      (s.mem.wf → ∀ a, t.mem.read a =
        if a = slotAddr c.slot 6 then
          protect (join16 2 (lo16 (checkWord (s.mem.read (slotAddr c.slot 6))).data ||| 1))
        else s.mem.read a) ∧
      t.counters = (if (checkWord (s.mem.read (slotAddr c.slot 6))).cls = .corrected then s.count 16
        else s).counters
  bad : ∀ c, s.inc.capture = some c →
    (checkWord (s.mem.read (slotAddr c.slot 6))).cls = .uncorrectable →
      t.inc.slots = s.inc.slots.set c.slot { s.inc.slots.get c.slot with state := .damaged } ∧
      (s.mem.wf → ∀ a, t.mem.read a =
        if a = slotAddr c.slot 6 then protect (join16 4 0) else s.mem.read a) ∧
      t.counters = (s.count 17).counters

/-- `t` is `s` at the start of a warm restart whose cause has the given detail (R184 and the chapters' own
restart rules). -/
structure WarmRestarted (s t : State) (detail : Byte) : Prop where
  clock : t.phase = .restarting ∧ t.clock.ms = 0
  links : ∀ l, (t.port l).Restarted ∧
    (t.port l).transfer = (if (s.port l).transfer = .idle then .idle else .ignored)
  params : t.params = s.params
  posted : ∀ i, (t.posted.get i).Empty
  exc : t.exc = s.exc
  holders : t.demand.penalty = s.demand.penalty ∧ t.demand.emergency = s.demand.emergency
    ∧ t.demand.maint = {}
  figures : t.demand.db = 0 ∧ t.demand.auto = 0 ∧ (∀ x, t.demand.ind.get x = 0)
    ∧ t.demand.dBlend = max s.penSource s.emerSource
    ∧ t.demand.dTot = min t.demand.dBlend s.params.dMax ∧ t.demand.mode = .run
  electric : ∀ k, t.res.electric.get k =
    (Entry.electricReset).restarted (s.res.electric.get k) (s.lockedOut k)
  air : ∀ x, t.res.air.get x =
    ({ Entry.airReset with ceiling := s.params.pServiceMax } : Entry).restarted (s.res.air.get x)
      (s.truckLockedOut x)
  blend : t.blend.Cleared
  speeds : SpeedsCleared t.tach t.speed
  axles : ∀ k, (t.slide.axles.get k).state = (if s.lockedOut k then .lockout else .normal)
    ∧ (t.slide.axles.get k).limit = (if s.lockedOut k then 0 else 1000)
    ∧ (t.slide.axles.get k).history = [] ∧ (t.slide.axles.get k).comparison = none
    ∧ (t.slide.axles.get k).lastEval = none
  trucks : ∀ x, t.slide.trucks.get x = ⟨.none, 0, 0, none, false⟩
  recorder : t.inc = { s.inc with
    ring := [], sample := none, armed := .ofFn fun _ => false, capture := none
    restartPending := some detail, slots := t.inc.slots }
  capture : CaptureEnded s t
  kept : t.diag = s.diag ∧ t.memLost = s.memLost
  lines : t.brkFault = true ∧ t.dump = ⟨false, false⟩

/-! Invariants -/

/-- The phases in which the part is out of PORST_N and has its supply. -/
def Phase.alive : Phase → Bool
  | .scanning | .running | .restarting => true
  | .held | .unpowered => false

/-- The six electric commands sum to no more than the record's D_tot (R63). -/
def State.SumWithinDemand (s : State) : Prop := sumAxles s.command ≤ s.blend.record.dTot

/-- Axle `k`'s command keeps to its limits (R79), with what the limits themselves keep to (R41, R105,
Table 6-6). -/
structure AxleWithinLimits (s : State) (k : Axle) : Prop where
  target : s.command k ≤ (s.blend.record.axles.get k).target
  avail : s.command k ≤ s.posted.availability k
  adhesion : s.command k ≤ (s.slide.axles.get k).limit
  range : (s.slide.axles.get k).limit ≤ 1000
  ceiling : s.command k ≤ (s.res.electric.get k).ceiling
  floor : (s.res.electric.get k).floor ≤ (s.res.electric.get k).ceiling
  off : (s.res.electric.get k).state = .off → s.command k = 0

/-- Every electric command keeps to its limits (R79). -/
def State.CommandsWithinLimits (s : State) : Prop :=
  s.params.cutFactor ≤ 1000 ∧ ∀ k, AxleWithinLimits s k

/-- The Demand Unit's copies, figures and mode are those its inputs give (R19, R20, R32). -/
structure DemandConsistent (s : State) : Prop where
  db : s.demand.db = s.posted.db.demandValue
  auto : s.demand.auto = s.posted.auto.demandValue
  ind : ∀ t, s.demand.ind.get t = (s.posted.ind.get t).demandValue
  blend : s.demand.dBlend = s.blendedDemand
  total : s.demand.dTot = min s.demand.dBlend s.params.dMax
  mode : s.demand.mode = s.evaluatedMode

/-- One entry's conditions and state: the state is derived (R49), remap LINK_LOSS is not ACTIVE (R43), and
the conditions STAND and LINK_LOSS hold as R46 and R47 say. -/
structure EntryConsistent (s : State) (e : Entry) : Prop where
  state : e.state = e.derive
  remap : e.remapLinkLoss ≠ .active
  stand : e.stand = decide (s.demand.mode = .stand)
  linkLoss : e.linkLoss = s.lossAmong e.members

/-- The Effort Resource Table is as its conditions give it (R46 to R49). -/
structure ResourcesConsistent (s : State) : Prop where
  electric : ∀ k, EntryConsistent s (s.res.electric.get k)
  air : ∀ t, EntryConsistent s (s.res.air.get t)
  electricLockout : ∀ k, (s.res.electric.get k).lockout = s.lockedOut k
  airLockout : ∀ t, (s.res.air.get t).lockout = s.truckLockedOut t

/-- The output lines follow the state while the part is out of PORST_N: each dump line is asserted exactly
while its truck's action is DUMP (R122), and BRK_FAULT as R36 says. -/
def State.LinesFollow (s : State) : Prop :=
  s.phase.alive = true →
    (∀ t, s.dump.get t = decide ((s.slide.trucks.get t).action = .dump)) ∧ s.brkFault = s.brakeFaulty

/-- The fields of a Link Interface agree: counts in range, and a DOWN link has counts 0, its timer stopped
and the NONE response (Table 10-3, R173, R177). -/
structure PortConsistent (x : LinkPort) : Prop where
  join : x.join ≤ 2
  fail : x.fail ≤ 2
  down : x.state = .down → x.join = 0 ∧ x.fail = 0 ∧ x.timeout = none ∧ x.response = .noRequest

/-- Every Link Interface is consistent. -/
def State.PortsConsistent (s : State) : Prop := ∀ l, PortConsistent (s.port l)

/-- Every parameter holds a value that a write could have given it (Tables 1-3, 2-5, 4-11, 5-8, 6-6, 7-8,
Section 10.4). -/
def Params.Legal (p : Params) : Prop := ∀ i, p.accepts i (p.get i) = true

/-- Every count is in its range (Chapter 9). -/
def State.CountsInRange (s : State) : Prop := ∀ n, (s.counters.get n).count ≤ 65535

/-- The recorder's working copies agree: a slot is CAPTURING exactly while a capture runs in it, and an
armed slot is UNREAD, while the part is out of PORST_N (R136, R141, R146); during the power-on scan no
capture is in progress and no slot is armed (R151); the numbers held are distinct and below the next
sequence number, which is at least 1 (R135); the ring holds up to 64 (R130). -/
structure RecorderConsistent (s : State) : Prop where
  capturing : s.phase.alive = true → ∀ i,
    (s.inc.slots.get i).state = .capturing ↔ ∃ c, s.inc.capture = some c ∧ c.slot = i
  armed : s.phase.alive = true → ∀ i, s.inc.armed.get i = true → (s.inc.slots.get i).state = .unread
  scan : s.phase = .scanning → s.inc.capture = none ∧ ∀ i, s.inc.armed.get i = false
  distinct : ∀ i j n, (s.inc.slots.get i).seq = some n → (s.inc.slots.get j).seq = some n → i = j
  next : ∀ i n, (s.inc.slots.get i).seq = some n → n < s.inc.nextSeq
  positive : 1 ≤ s.inc.nextSeq
  ring : s.inc.ring.length ≤ 64

/-- What the part keeps in store: Record Memory in its canonical form, the counts in their range, and the
recorder's copies. -/
structure StoreSound (s : State) : Prop where
  mem : s.mem.wf
  counts : s.CountsInRange
  recorder : RecorderConsistent s

/-- The figures that follow from others: parameters in range, links, demand and mode, the resource table
and the output lines. -/
structure FiguresFollow (s : State) : Prop where
  params : s.params.Legal
  ports : s.PortsConsistent
  demand : DemandConsistent s
  resources : ResourcesConsistent s
  lines : s.LinesFollow

/-- The pressure commands keep to their bounds: at most the target, which is at most P_EMER and 0 while the
truck's action is DUMP, and outside emergency at most the air bound (R72), with P_SERVICE_MAX at most P_EMER
(Table 4-11). -/
structure PressuresBounded (s : State) : Prop where
  service : s.params.pServiceMax ≤ s.params.pEmer
  command : ∀ t, s.pressure t ≤ (s.blend.record.trucks.get t).target
  target : ∀ t, (s.blend.record.trucks.get t).target ≤ s.params.pEmer
  bound : s.demand.emergency.any = false → ∀ t, s.pressure t ≤ s.airBound t
  dump : ∀ t, (s.slide.trucks.get t).action = .dump → (s.blend.record.trucks.get t).target = 0

/-- The electric commands keep to their limits and to the demand, and the pressure commands to theirs. -/
structure CommandsBounded (s : State) : Prop where
  limits : s.CommandsWithinLimits
  sum : s.SumWithinDemand
  pressures : PressuresBounded s

end Sys2Proof.Machine
end

