-- ==== Sys2Proof/Certificates/Slice0/Obligations.lean ====
section
/-! DEFINITION. The statements for the provers. Each docstring names the rules of spec/ it formalises, and
the log entry where a clause is the model's own choice. -/

open Sys2Proof Sys2Proof.Machine

/-! The machine: queue, power and resets -/

/-- A step takes the command at the front of the queue and answers what `exec` answers on the state with
the queue's rest. -/
def Obligations.StepRunsFrontCommand : Prop :=
  ∀ (c : Instr) (rest : List Instr) (s : State),
    s.pending = c :: rest → step s = exec c (s.setPending rest)

/-- With no command waiting, the oldest trigger on its way arrives as INCIDENT_TRIGGER while the part is in
service (log 4); otherwise 1 µs passes while the part is out of PORST_N and has its supply, and 1000 µs
make 1 ms (log 2). Both are the model's choices. -/
def Obligations.EmptyQueueIdles : Prop :=
  ∀ s : State, s.pending = [] →
    (∀ x rest, s.sent = x :: rest → s.phase = .running →
      step s = exec (.incidentTrigger x.cause x.detail) s) ∧
    (s.sent = [] ∨ s.phase ≠ .running →
      step s = .next (if s.phase.alive then
        s.setClock (if s.clock.sub < 999 then ⟨s.clock.ms, s.clock.us + 1, s.clock.sub + 1⟩
          else ⟨s.clock.ms + 1, s.clock.us + 1, 0⟩) else s))

/-- The release of PORST_N gives every block its power-on state, from any state, and keeps Record Memory
and the waiting commands; the state after reset is such a state (R185; the reset state is the release of
PORST_N by log 7, and VBAK is back with VDD by log 27). -/
def Obligations.PowerOnState : Prop :=
  AtPowerOn .reset ∧
  ∀ s, ∃ t, exec .powerOn s = .next t ∧ AtPowerOn t ∧ t.mem = s.mem ∧ t.pending = s.pending ∧
    t.vbak = (s.vbak || decide (s.phase = .unpowered))

/-- PORST_N held low asserts BRK_FAULT, deasserts the dump lines and stops the part (R185; without VDD the
part stays without it, log 9); a loss of VDD stops the part and ends a capture, and leaves Record Memory to
VBAK: with it the words stay, without it their marker is wrong (R141, R152, R153; the lines BRK_FAULT and
DUMP stay as they are, log 9). The loss of VBAK while VDD is absent leaves a memory whose marker is wrong;
while VDD is present the words stay until VDD is lost too (R152; log 8 and log 27). Both PORST_N and a loss
of VDD hold DOUT high and leave a transfer in progress to be ignored, and the rest of each Link Interface as
it was (R169, R185; log 9). -/
def Obligations.SuppliesAndReset : Prop :=
  ∀ s : State,
    let cut := fun l => { s.port l with
      transfer := if (s.port l).transfer = .idle then .idle else .ignored, shiftOut := none }
    (∃ t, exec .porstNAssert s = .next t ∧ t.brkFault = true ∧ t.dump = ⟨false, false⟩ ∧
      t.phase = (if s.phase = .unpowered then .unpowered else .held) ∧
      (∀ l, t.port l = cut l) ∧ t.mem = s.mem ∧
      t = (((s.setBrkFault true).setDump ⟨false, false⟩).setLinks t.links).setPhase t.phase) ∧
    (∃ t, exec .powerLoss s = .next t ∧ t.phase = .unpowered ∧ t.inc.capture = none ∧
      (∀ l, t.port l = cut l) ∧ (s.vbak = true → t.mem = s.mem) ∧
      (s.vbak = false → t.mem.wf ∧ markerIntact (t.mem.read (retentionAddr 0)) = false) ∧
      t = (((s.setInc { s.inc with capture := none }).setLinks t.links).setMem t.mem).setPhase .unpowered) ∧
    (s.phase = .unpowered → ∃ t, exec .retentionSupplyLoss s = .next t ∧
      t = (s.setVbak false).setMem t.mem ∧
      t.mem.wf ∧ markerIntact (t.mem.read (retentionAddr 0)) = false) ∧
    (s.phase ≠ .unpowered → exec .retentionSupplyLoss s = .next (s.setVbak false))

/-- Outside service (a scan, a restart, PORST_N low, no supply) every request and every event but those of
a transfer's start and abort, of the resets and of the supplies changes nothing; a WRST_N or a completion
that does not belong to the phase changes nothing either (R169, R184, R185; log 9). -/
def Obligations.OutsideServiceNothingHappens : Prop :=
  (∀ (c : Instr) (s : State), c.wf = true → needsService c = true → s.phase ≠ .running →
    exec c s = .next s) ∧
  (∀ s : State, s.phase ≠ .running → exec .wrstNAssert s = .next s) ∧
  (∀ s : State, s.phase ≠ .restarting → exec .warmRestartComplete s = .next s) ∧
  (∀ (w : Bool) (s : State), s.phase ≠ .scanning → exec (.powerOnScanComplete w) s = .next s)

/-- A warm restart begins at the assertion of WRST_N in service, at the completion of the scan where WRST_N
is found asserted, and at RESTART at standstill, which is never answered; RESTART is refused while the
standstill flag is clear (R184). -/
def Obligations.WarmRestartBegins : Prop :=
  (∀ s : State, s.phase = .running → ∃ t, exec .wrstNAssert s = .next t ∧ WarmRestarted s t 1) ∧
  (∀ s : State, s.phase = .scanning → ∃ u t, exec (.powerOnScanComplete false) s = .next u ∧
    exec (.powerOnScanComplete true) s = .next t ∧ WarmRestarted u t 1) ∧
  (∀ (r : Req) (s u : State), s.Takes 128 r u →
    (u.speed.standstill = true → ∃ t, exec (.restart r) s = .next t ∧ WarmRestarted u t 2) ∧
    (u.speed.standstill = false → exec (.restart r) s = .next (u.answered 128 r .refusedState {})))

/-- At the completion of a warm restart the part goes into service: the blend period, window, zero and
sample timers start, and BRK_FAULT follows R36 (R37, R59, R104, R128, R150, R184). -/
def Obligations.RestartCompletes : Prop :=
  ∀ s : State, s.phase = .restarting →
    ∃ t, exec .warmRestartComplete s = .next t ∧ t.phase = .running ∧
      t.blend = { s.blend with period := some ⟨s.now, s.params.tBlend⟩ } ∧
      (∀ k, t.speed.axles.get k =
        { s.speed.axles.get k with
          window := some ⟨s.now, s.params.window⟩, zero := some ⟨s.now, s.params.zeroTime⟩ }) ∧
      t.inc = { s.inc with sample := some ⟨s.now, s.params.samplePeriod⟩ } ∧
      t.brkFault = s.brakeFaulty ∧
      t = ((((s.setPhase .running).setBlend t.blend).setSpeed { s.speed with axles := t.speed.axles }).setInc
        t.inc).setBrkFault t.brkFault

/-- The completion of a power-on scan whose marker is not intact takes the contents as lost: every header is
written FREE, the retention words are rewritten, the working copies are handed over and the snapshot words
left (R157). The part is then in service with the blend period, window, zero and sample timers started and
BRK_FAULT as R36 says (R37, R59, R104, R128); where WRST_N is found asserted, a warm restart begins from
there (R184). The whole scan is taken at its completion (log 11). -/
def Obligations.ScanOfLostMemory : Prop :=
  ∀ s : State, s.phase = .scanning → s.mem.wf → markerIntact (s.mem.read (retentionAddr 0)) = false →
    ∃ t, exec (.powerOnScanComplete false) s = .next t ∧ ScanCompleted s t ∧
      (∃ v, exec (.powerOnScanComplete true) s = .next v ∧ WarmRestarted t v 1) ∧
      t.memLost = true ∧ t.counters = (s.readWord (retentionAddr 0)).2.counters ∧
      (∀ i, t.inc.slots.get i = ⟨.free, none⟩) ∧ t.inc.freeze = false ∧ t.inc.nextSeq = 1 ∧ t.mem.wf ∧
      (∀ i, ∀ n < 7, t.mem.read (slotAddr i n) = protect 0) ∧
      t.mem.read (retentionAddr 0) = protect 0x96C35A0F#32 ∧ t.mem.read (retentionAddr 1) = protect 1 ∧
      t.mem.read (retentionAddr 2) = protect 0 ∧
      ∀ a, a ∉ scannedAddrs → t.mem.read a = s.mem.read a

/-- The completion of a power-on scan whose marker is intact classifies every slot by its header, with the
words 6 that it writes (log 32), ends a CAPTURING slot as UNREAD and truncated, makes a slot that repeats a
lower slot's number DAMAGED and lets a DAMAGED slot keep a number that no other slot holds (R158). The next
sequence number is the greater of one more than the highest number held and word 1, or the first alone;
FREEZE comes from word 2; the retention words are written to match, and no other word (R154, R159). The part
is then in service with its timers started and BRK_FAULT as R36 says (R37, R59, R104, R128); where WRST_N is
found asserted, a warm restart begins from there (R184). The whole scan is taken at its completion
(log 11). -/
def Obligations.ScanOfIntactMemory : Prop :=
  ∀ s : State, s.phase = .scanning → s.mem.wf → markerIntact (s.mem.read (retentionAddr 0)) = true →
    ∃ t, exec (.powerOnScanComplete false) s = .next t ∧ ScanCompleted s t ∧
      (∃ v, exec (.powerOnScanComplete true) s = .next v ∧ WarmRestarted t v 1) ∧
      t.memLost = false ∧ t.mem.wf ∧
      t.counters = ((s.countMany 16 (s.scannedAs .corrected)).countMany 17
        (s.scannedAs .uncorrectable)).counters ∧
      (∀ i,
        let cs := (List.range 7).map fun n => checkWord (s.mem.read (slotAddr i n))
        let code := (hi16 (dataAt cs 6)).toNat
        let marks := lo16 (dataAt cs 6)
        let slot := t.inc.slots.get i
        let six := t.mem.read (slotAddr i 6)
        let damaged := fun m : Half => slot.state = .damaged ∧ six = protect (join16 4 m)
        let repeats := ∃ j, slotNo j < slotNo i ∧ (t.inc.slots.get j).seq = some (dataAt cs 0) ∧
          ((t.inc.slots.get j).state = .unread ∨ (t.inc.slots.get j).state = .read)
        (anyBad cs = true →
          damaged (if (checkWord (s.mem.read (slotAddr i 6))).cls = .uncorrectable then 0 else marks)) ∧
        (anyBad cs = false → code = 0 →
          slot = ⟨.free, none⟩ ∧ six = (s.mem.read (slotAddr i 6)).scrubbed) ∧
        (anyBad cs = false → code = 4 →
          slot.state = .damaged ∧ six = (s.mem.read (slotAddr i 6)).scrubbed) ∧
        (anyBad cs = false → 4 < code → damaged marks) ∧
        (anyBad cs = false → 1 ≤ code → code ≤ 3 → malformed cs = true → damaged marks) ∧
        (anyBad cs = false → 1 ≤ code → code ≤ 3 → malformed cs = false →
          let left := if code = 1 then marks ||| 1 else marks
          (repeats → damaged left) ∧
          (¬repeats → slot = ⟨if code = 3 then .read else .unread, some (dataAt cs 0)⟩ ∧
            six = if code = 1 then protect (join16 2 left) else (s.mem.read (slotAddr i 6)).scrubbed)) ∧
        (slot.state = .damaged →
          let zero := checkWord (s.mem.read (slotAddr i 0))
          (zero.cls ≠ .uncorrectable → t.damagedKeeps i zero.data → slot.seq = some zero.data) ∧
          (zero.cls = .uncorrectable ∨ ¬t.damagedKeeps i zero.data → slot.seq = none)) ∧
        (∀ n < 6, t.mem.read (slotAddr i n) = (s.mem.read (slotAddr i n)).scrubbed)) ∧
      (∀ i j n, (t.inc.slots.get i).seq = some n → (t.inc.slots.get j).seq = some n → i = j) ∧
      (∀ i n, (t.inc.slots.get i).seq = some n → n < t.inc.nextSeq) ∧
      (let one := checkWord (s.mem.read (retentionAddr 1))
        let held := allSlots.map fun i => match (t.inc.slots.get i).seq with
          | some n => n.toNat
          | none => 0
        let first := held.foldl max 0 + 1
        t.inc.nextSeq.toNat =
          if one.cls ≠ .uncorrectable ∧ 1 ≤ one.data.toNat then max first one.data.toNat else first) ∧
      (t.inc.freeze = false ↔ (checkWord (s.mem.read (retentionAddr 2))).cls ≠ .uncorrectable ∧
        (checkWord (s.mem.read (retentionAddr 2))).data = 0) ∧
      t.mem.read (retentionAddr 0) = protect 0x96C35A0F#32 ∧
      t.mem.read (retentionAddr 1) = protect t.inc.nextSeq ∧
      t.mem.read (retentionAddr 2) = protect (if t.inc.freeze then 1 else 0) ∧
      ∀ a, a ∉ scannedAddrs → t.mem.read a = s.mem.read a

/-! Frames and links -/

/-- The frame of every well-formed request decodes to that request on its link, whatever its tag, selector,
field byte and parameter words (Table 10-1, Table 10-4, R171, R172, R179 check 1). -/
def Obligations.FrameRoundTrip : Prop :=
  ∀ (i : Instr) (kind : Byte) (r : Req), i.wf = true → requestParts i = some (kind, r) →
    ∃ bytes, encodeFrame i = some (r.link, bytes) ∧ bytes.length = 32 ∧ decodeFrame r.link bytes = some i

/-- A frame of 32 bytes passes exactly when bytes 30 and 31 are the CRC of bytes 0 to 29, high byte first,
and a failing one is FRAME_CHECK_FAILURE; the characters "1" to "9" give 29B1; the kind, tag, selector and
field bytes and the words stand where Table 10-1 puts them; a frame in which exactly one bit was inverted
on the way fails its check (R171, R172). -/
def Obligations.FrameCheckAndLayout : Prop :=
  crcOf [0x31#8, 0x32#8, 0x33#8, 0x34#8, 0x35#8, 0x36#8, 0x37#8, 0x38#8, 0x39#8] = 0x29B1#16 ∧
  (∀ (l : LinkId) (bytes : List Byte), bytes.length = 32 →
    (decodeFrame l bytes = some (.frameCheckFailure l) ↔
      ¬(bytes.getD 30 0 = hi8 (crcOf (bytes.take 30)) ∧ bytes.getD 31 0 = lo8 (crcOf (bytes.take 30))))) ∧
  (∀ (b₀ b₁ b₂ b₃ : Byte) (w : Words),
    (frameOf b₀ b₁ b₂ b₃ w).take 4 = [b₀, b₁, b₂, b₃] ∧
    (frameOf b₀ b₁ b₂ b₃ w).length = 32 ∧
    ∀ n < 13, (frameOf b₀ b₁ b₂ b₃ w).getD (2 * n + 4) 0 ++ (frameOf b₀ b₁ b₂ b₃ w).getD (2 * n + 5) 0
      = (wordList w).getD n 0) ∧
  (∀ (bytes : List Byte) (n b : Nat), bytes.length = 32 → framePasses bytes = true → n < 32 → b < 8 →
    framePasses (bytes.set n (bytes.getD n 0 ^^^ BitVec.ofNat 8 (2 ^ b))) = false)

/-- At the start of a transfer in service, DOUT takes up the pending response with the summary byte of
R174 and the CRC of R172; outside service the transfer is ignored and DOUT shifts all ones. NEW holds
exactly while a slot is UNREAD (R145, R169, R173, R174). -/
def Obligations.TransferStartShiftsResponse : Prop :=
  (∀ (l : LinkId) (s : State), s.phase = .running →
    exec (.transferStart l) s = .next (s.setPort l { s.port l with
      transfer := .active
      shiftOut := some (frameOf (s.port l).response.kind (s.port l).response.tag
        (BitVec.ofNat 8 (statusCode (s.port l).response.status))
        (BitVec.ofNat 8
          (modeCode s.demand.mode + 4 * linkStateCode (s.port l).state + (if s.newIncident then 16 else 0)
            + (if s.anyFlag then 32 else 0) + (if s.inc.freeze then 64 else 0)
            + (if s.demand.emergency.any then 128 else 0)))
        (s.port l).response.data) })) ∧
  (∀ (l : LinkId) (s : State), s.phase ≠ .running →
    exec (.transferStart l) s = .next (s.setPort l { s.port l with transfer := .ignored, shiftOut := none })) ∧
  (∀ s : State, s.newIncident = true ↔ ∃ i, (s.inc.slots.get i).state = .unread) ∧
  (∀ s : State, s.anyFlag = true ↔ ∃ k, (s.exc.get k).source.isSome = true)

/-- An abort in service ends the transfer and, on a JOINING or UP link, makes the pending response ABORTED
with kind 0, tag 0 and no data; it leaves the link's state, counts and timer (R170). A frame or an abort of
a transfer that is ignored as a whole changes nothing but that the transfer is over (R169; log 6). -/
def Obligations.AbortedAndIgnoredTransfers : Prop :=
  (∀ (l : LinkId) (s : State), s.Serving l →
    exec (.transferAbort l) s = .next (s.setPort l { s.port l with
      transfer := .idle, shiftOut := none
      response := if (s.port l).state = .down then (s.port l).response else ⟨0, 0, .aborted, {}⟩ })) ∧
  (∀ (l : LinkId) (s : State), s.phase ≠ .running ∨ (s.port l).transfer = .ignored →
    exec (.transferAbort l) s = .next (s.setPort l { s.port l with transfer := .idle, shiftOut := none })) ∧
  (∀ (l : LinkId) (s : State), s.phase = .running → (s.port l).transfer = .ignored →
    exec (.frameCheckFailure l) s =
      .next (s.setPort l { s.port l with transfer := .idle, shiftOut := none })) ∧
  (∀ (c : Instr) (kind : Byte) (r : Req) (s : State), c.wf = true → requestParts c = some (kind, r) →
    s.phase = .running → (s.port r.link).transfer = .ignored →
    exec c s = .next (s.setPort r.link { s.port r.link with transfer := .idle, shiftOut := none }))

/-- What the arrival of a passing frame makes of its link before the request is taken: DOWN becomes JOINING
with a join count of 1, JOINING counts up and becomes UP at the third frame, UP stays; the failure count
becomes 0 and the timer restarts. The change of state reaches the entries that have the link among their
members, with exactly the cuts that their new states call for, and BRK_FAULT for P and A; nothing else
differs (R36, R47, R49, R50, R79, R80, R175). -/
def Obligations.ArrivalMovesLink : Prop :=
  ∀ (s : State) (l : LinkId),
    let x := s.port l
    let y : LinkPort := { x with
      transfer := .idle, shiftOut := none, fail := 0, timeout := some ⟨s.now, s.params.linkTimeout.get l⟩ }
    (x.state = .down → (s.arrive l).port l = { y with state := .joining, join := 1 }) ∧
    (x.state = .joining → x.join < 2 → s.arrive l = s.setPort l { y with join := x.join + 1 }) ∧
    (x.state = .joining → x.join = 2 → (s.arrive l).port l = { y with state := .up, join := 0 }) ∧
    (x.state = .up → s.arrive l = s.setPort l y) ∧
    ((s.arrive l).linkState l ≠ x.state →
      (∀ k, (s.arrive l).res.electric.get k =
        if (s.res.electric.get k).members.has l then
          let e : Entry := { s.res.electric.get k with
            linkLoss := (s.arrive l).lossAmong (s.res.electric.get k).members }
          { e with state := e.derive }
        else s.res.electric.get k) ∧
      (∀ t, (s.arrive l).res.air.get t =
        if (s.res.air.get t).members.has l then
          let e : Entry := { s.res.air.get t with
            linkLoss := (s.arrive l).lossAmong (s.res.air.get t).members }
          { e with state := e.derive }
        else s.res.air.get t) ∧
      (s.arrive l).brkFault = match l with
        | .m => s.brkFault
        | .p | .a => (s.arrive l).brakeFaulty) ∧
    OnlyCut s.blend (s.arrive l).blend ∧ TableCuts s (s.arrive l) ∧
    s.arrive l = (((s.setPort l ((s.arrive l).port l)).setRes (s.arrive l).res).setBlend
      (s.arrive l).blend).setBrkFault (s.arrive l).brkFault

/-- The checks of every request: a kind that Table 10-4 does not admit from the link is refused with
REFUSED_KIND, UNKNOWN_REQUEST_KIND among them; a posting on a JOINING link is refused with REFUSED_STATE;
NOP changes nothing and is answered with OK and no data (R179). The event UNKNOWN_REQUEST_KIND with a kind
that is admitted does not exist, and the model refuses it (log 24). -/
def Obligations.RequestChecks : Prop :=
  (∀ (c : Instr) (kind : Byte) (r : Req) (s : State), requestParts c = some (kind, r) →
    s.Serving r.link → admits kind r.link = false →
    exec c s = .next ((s.arrive r.link).answered kind r .refusedKind {})) ∧
  (∀ p ∈ postings, ∀ (r : Req) (s : State), s.Serving r.link → admits p.2.1 r.link = true →
    (s.arrive r.link).linkState r.link = .joining →
    exec (p.1 r) s = .next ((s.arrive r.link).answered p.2.1 r .refusedState {})) ∧
  (∀ (r : Req) (s u : State), s.Takes 1 r u → exec (.nop r) s = .next (u.answered 1 r .ok {})) ∧
  (∀ (kind : Byte) (r : Req) (s : State), admits kind r.link = true →
    exec (.unknownRequestKind kind r) s = .refused .kindIsAdmitted)

/-- A failing frame is counted as event 18 whatever the link's state; on a DOWN link nothing further
changes; the first two in succession raise the failure count, clear the join count and answer
CHECK_FAILED; the third takes the link DOWN with detail 2, and the recipients of the loss take it in an
order left open (R172, R176, R178; log 5). -/
def Obligations.CheckFailureCounts : Prop :=
  ∀ (l : LinkId) (s : State), s.Serving l →
    let x : LinkPort := { s.port l with transfer := .idle, shiftOut := none }
    (x.state = .down → exec (.frameCheckFailure l) s = .next ((s.setPort l x).count 18)) ∧
    (x.state ≠ .down → x.fail < 2 → exec (.frameCheckFailure l) s = .next ((s.setPort l
      { x with fail := x.fail + 1, join := 0, response := ⟨0, 0, .checkFailed, {}⟩ }).count 18)) ∧
    (x.state ≠ .down → 2 ≤ x.fail →
      ∃ t, exec (.frameCheckFailure l) s = .next t ∧ LinkLost ((s.setPort l x).count 18) t l 2)

/-- The expiry of a link timeout timer whose run has passed takes the link DOWN with detail 1, and the
recipients of the loss take it in an order left open (R177, R178; log 5); an expiry that is not due does not
happen (log 3). -/
def Obligations.LinkTimeoutTakesDown : Prop :=
  ∀ (l : LinkId) (s : State), s.phase = .running →
    (s.runOver (s.port l).timeout →
      ∃ t, exec (.linkTimeoutExpiry l) s = .next t ∧ LinkLost s t l 1) ∧
    (¬s.runOver (s.port l).timeout → exec (.linkTimeoutExpiry l) s = .next s)

/-! Posted values and exceptions -/

/-- A posting classifies each of its items by itself: a post in range makes it VALID, one out of range is
saturated and makes it CLAMPED, a marked one makes it FAULT and leaves its values; the timers as R3 to R5
say. Other items stay, each saturated post counts as event 19, and the answer holds the classes. Beside the
table only the exceptions, the demand and what follows from it can differ (R1, R3, R4, R5). -/
def Obligations.PostingsClassify : Prop :=
  ∀ p ∈ postings, ∀ (r : Req) (s u : State), s.Takes p.2.1 r u → ∃ t,
    exec (p.1 r) s = .next (t.answered p.2.1 r .ok
      (dataOf (p.2.2.map fun i => clsCode (t.posted.get i).cls))) ∧
    (∀ x ∈ p.2.2.zipIdx, t.posted.get x.1 = (u.posted.get x.1).posted u.now u.params
      (itemMax u.params x.1) ((wordList r.words).getD x.2 0).toInt (r.field.getLsbD x.2)) ∧
    (∀ i, i ∉ p.2.2 → t.posted.get i = u.posted.get i) ∧
    t.counters = (u.countMany 19 (u.saturatedBy r p.2.2).length).counters ∧
    t = ((((((u.setPosted t.posted).setCounters t.counters).setExc t.exc).setSent t.sent).setDemand
      t.demand).setRes t.res).setBlend t.blend

/-- What a posting leads to: one occurrence of INPUT_CLAMPED and one of INPUT_FAULT at most, each with the
lowest-numbered item that gives it; then the limit reductions for fallen availabilities, and one inform of
the Demand Unit if its figures changed (R4, R5, R12 to R15, R19; that the trigger of INPUT_CLAMPED is sent
before that of INPUT_FAULT is the model's choice, log 5). -/
def Obligations.PostingsHandOn : Prop :=
  ∀ p ∈ postings, ∀ (r : Req) (s u : State), s.Takes p.2.1 r u → ∃ t w,
    exec (p.1 r) s = .next (t.answered p.2.1 r .ok w) ∧
    ∃ b c, RaisedFirst ((u.setPosted t.posted).setCounters t.counters) b .clamped (u.clampedBy r p.2.2) ∧
      RaisedFirst b c .fault (u.faultedBy r p.2.2) ∧ Handed c t u.posted

/-- Each class gives its item the substituted value of Table 1-4, and the worst class of a family is its
most severe one. A fresh expiry makes a VALID or CLAMPED item STALE and is an occurrence of INPUT_STALE; a
hold expiry makes a STALE or FAULT item ABSENT; after a good-hold expiry the good value backs nothing. The
changed substituted values are handed on (R6, R7, R10, R11, R12). On an item of another class an expiry has
no effect (log 30 for a hold or good-hold expiry of a VALID or CLAMPED item), and one that is not due does
not happen (log 3). -/
def Obligations.AgesAndSubstitution : Prop :=
  (∀ x : PostedItem,
    let last := x.last.getD 0
    (x.cls = .valid ∨ x.cls = .clamped → x.demandValue = last ∧ x.effortValue = last ∧
      x.pressureValue = some last ∧ x.groundValue = some last) ∧
    (x.cls = .stale → x.demandValue = last ∧ x.effortValue = last ∧ x.pressureValue = some last ∧
      x.groundValue = none) ∧
    (x.cls = .fault → (∀ g, x.goodHold ≠ none → x.good = some g → x.demandValue = g.value) ∧
      (x.goodHold = none ∨ x.good = none → x.demandValue = 0)) ∧
    (x.cls = .absent → x.demandValue = 0) ∧
    (x.cls = .fault ∨ x.cls = .absent → x.effortValue = 0 ∧ x.pressureValue = none ∧
      x.groundValue = none)) ∧
  (∀ v : Posted,
    let n := fun i => clsCode (v.get i).cls
    clsCode v.worst.demand = max (n .db) (n .auto) ∧
    clsCode v.worst.indep = max (n (.ind .t1)) (n (.ind .t2)) ∧
    clsCode v.worst.pressure = max (n (.ap .t1)) (n (.ap .t2)) ∧
    (∀ k, n (.av k) ≤ clsCode v.worst.avail) ∧ (∃ k, v.worst.avail = (v.get (.av k)).cls) ∧
    (∀ k, n (.ae k) ≤ clsCode v.worst.achieved) ∧ (∃ k, v.worst.achieved = (v.get (.ae k)).cls) ∧
    v.worst.ground = (v.get .gs).cls) ∧
  ∀ (i : Item) (s : State), s.phase = .running →
    let x := s.posted.get i
    (s.runOver x.fresh → x.cls = .valid ∨ x.cls = .clamped → ∃ t, exec (.freshExpiry i) s = .next t ∧
      Raised (s.setPosted (s.posted.set i { x with cls := .stale, fresh := none })) t .stale
        (itemCode i)) ∧
    (s.runOver x.hold → ∃ t, exec (.holdExpiry i) s = .next t ∧ HoldTaken i s t) ∧
    (s.runOver x.goodHold → ∃ t, exec (.goodHoldExpiry i) s = .next t ∧ GoodHoldTaken i s t) ∧
    (¬s.runOver x.fresh ∨ (x.cls ≠ .valid ∧ x.cls ≠ .clamped) → exec (.freshExpiry i) s = .next s) ∧
    (¬s.runOver x.hold → exec (.holdExpiry i) s = .next s) ∧
    (¬s.runOver x.goodHold → exec (.goodHoldExpiry i) s = .next s)

/-- SET_MASK replaces all six masks by the set its selector names, and CLEAR_EXC clears the flags and
details of the kinds it names; the answers hold the masks as they now stand and the flags as they stood.
A selector above 63 is refused with REFUSED_RANGE, the P-link and the A-link with REFUSED_KIND (R16,
R17). -/
def Obligations.MasksAndClears : Prop :=
  (∀ (r : Req) (s u : State), s.Takes 65 r u →
    (r.selector.toNat ≤ 63 → ∃ e, exec (.setMask r) s =
        .next ((u.setExc e).answered 65 r .ok { w1 := BitVec.ofNat 16 r.selector.toNat }) ∧
      ∀ k, e.get k = { u.exc.get k with masked := decide (r.selector.toNat / kindWeight k % 2 = 1) }) ∧
    (63 < r.selector.toNat → exec (.setMask r) s = .next (u.answered 65 r .refusedRange {}))) ∧
  (∀ (r : Req) (s u : State), s.Takes 66 r u →
    (r.selector.toNat ≤ 63 → ∃ e, exec (.clearExc r) s =
        .next ((u.setExc e).answered 66 r .ok { w1 := BitVec.ofNat 16 u.flagsCode }) ∧
      ∀ k, e.get k = if r.selector.toNat / kindWeight k % 2 = 1 then { u.exc.get k with source := none }
        else u.exc.get k) ∧
    (63 < r.selector.toNat → exec (.clearExc r) s = .next (u.answered 66 r .refusedRange {}))) ∧
  (∀ (r : Req) (s : State), s.Serving r.link → r.link ≠ .m →
    exec (.setMask r) s = .next ((s.arrive r.link).answered 65 r .refusedKind {}) ∧
    exec (.clearExc r) s = .next ((s.arrive r.link).answered 66 r .refusedKind {}))

/-! Demand, penalty, emergency and mode -/

/-- PENALTY_SET adds its link to the penalty holder set: into an empty set with D_blend, D_tot, the mode
and the trigger PENALTY, into another without; a link already in it changes nothing. PENALTY_CLEAR removes
its own link only, with D_blend, D_tot and the mode where that empties the set, and sends no trigger. The
answers hold the two holder sets and the mode (R22, R23). -/
def Obligations.PenaltyRequests : Prop :=
  (∀ (r : Req) (s u : State), s.Takes 32 r u → ∃ t,
    exec (.penaltySet r) s = .next (t.answered 32 r .ok
      (dataOf [t.demand.penalty.code, t.demand.emergency.code, modeCode t.demand.mode])) ∧
    (u.demand.penalty.has r.link = true → t = u) ∧
    (u.demand.penalty.has r.link = false → u.demand.penalty.any = true →
      t = u.setDemand { u.demand with penalty := u.demand.penalty.put r.link true }) ∧
    (u.demand.penalty.any = false → ∃ m,
      ModeSettled (u.recomputed { u.demand with penalty := u.demand.penalty.put r.link true }) m ∧
      t = m.setSent (m.sent ++ [⟨.penalty, BitVec.ofNat 8 (linkWeight r.link)⟩]))) ∧
  (∀ (r : Req) (s u : State), s.Takes 33 r u → ∃ t,
    exec (.penaltyClear r) s = .next (t.answered 33 r .ok
      (dataOf [t.demand.penalty.code, t.demand.emergency.code, modeCode t.demand.mode])) ∧
    let rest := u.demand.penalty.put r.link false
    (u.demand.penalty.has r.link = false → t = u) ∧
    (u.demand.penalty.has r.link = true → rest.any = true →
      t = u.setDemand { u.demand with penalty := rest }) ∧
    (u.demand.penalty.has r.link = true → rest.any = false →
      ModeSettled (u.recomputed { u.demand with penalty := rest }) t))

/-- PENALTY_RESET at standstill empties the penalty holder set with the effects of an emptied set, and
changes nothing on an empty one; with the standstill flag clear it is refused with REFUSED_STATE, and from
the P-link or the A-link with REFUSED_KIND (R24). -/
def Obligations.PenaltyReset : Prop :=
  (∀ (r : Req) (s u : State), s.Takes 34 r u →
    (u.speed.standstill = true → ∃ t, exec (.penaltyReset r) s = .next (t.answered 34 r .ok
        (dataOf [t.demand.penalty.code, t.demand.emergency.code, modeCode t.demand.mode])) ∧
      (u.demand.penalty.any = false → t = u) ∧
      (u.demand.penalty.any = true → ModeSettled (u.recomputed { u.demand with penalty := {} }) t)) ∧
    (u.speed.standstill = false → exec (.penaltyReset r) s = .next (u.answered 34 r .refusedState {}))) ∧
  (∀ (r : Req) (s : State), s.Serving r.link → r.link ≠ .m →
    exec (.penaltyReset r) s = .next ((s.arrive r.link).answered 34 r .refusedKind {}))

/-- EMER_SET adds its link to the emergency holder set: into an empty set emergency comes into force, with
D_blend, D_tot, the mode and the trigger EMERGENCY; into the other only the set changes; a link already in
it changes nothing (R26). -/
def Obligations.EmergencySet : Prop :=
  ∀ (r : Req) (s u : State), s.Takes 35 r u → ∃ t,
    exec (.emerSet r) s = .next (t.answered 35 r .ok
      (dataOf [t.demand.penalty.code, t.demand.emergency.code, modeCode t.demand.mode])) ∧
    (u.demand.emergency.has r.link = true → t = u) ∧
    (u.demand.emergency.has r.link = false → u.demand.emergency.any = true →
      t = u.setDemand { u.demand with emergency := u.demand.emergency.put r.link true }) ∧
    (u.demand.emergency.any = false → ∃ m,
      ModeSettled (u.recomputed { u.demand with emergency := u.demand.emergency.put r.link true }) m ∧
      t = m.setSent (m.sent ++ [⟨.emergency, BitVec.ofNat 8 (linkWeight r.link)⟩]))

/-- EMER_CLEAR at standstill removes its link. Where that empties the set, emergency leaves force: D_blend,
D_tot and the mode follow, the record's emergency flag is cleared and each pressure target above its
truck's air bound is cut to it with its command; the revision rises by 1 for each cut, and for the clearing
where the reduction that clears cuts nothing. The demand's own consequences and the two reductions are taken
in an order left open (log 5). With the standstill flag clear it is refused with REFUSED_STATE, whether or
not the link is in the set (R28, R80). -/
def Obligations.EmergencyClear : Prop :=
  ∀ (r : Req) (s u : State), s.Takes 36 r u →
    (u.speed.standstill = false → exec (.emerClear r) s = .next (u.answered 36 r .refusedState {})) ∧
    (u.speed.standstill = true → ∃ t, exec (.emerClear r) s = .next (t.answered 36 r .ok
        (dataOf [t.demand.penalty.code, t.demand.emergency.code, modeCode t.demand.mode])) ∧
      let rest := u.demand.emergency.put r.link false
      let b := u.recomputed { u.demand with emergency := rest }
      (u.demand.emergency.has r.link = false → t = u) ∧
      (u.demand.emergency.has r.link = true → rest.any = true →
        t = u.setDemand { u.demand with emergency := rest }) ∧
      (u.demand.emergency.has r.link = true → rest.any = false →
        t.demand = { b.demand with mode := b.evaluatedMode } ∧
        t.blend.record.emergency = false ∧
        (∀ x, (t.blend.record.trucks.get x).target ≤ u.airBound x ∧
          (t.blend.record.trucks.get x).target ≤ (u.blend.record.trucks.get x).target ∧
          (t.blend.record.trucks.get x).command ≤ (u.blend.record.trucks.get x).command) ∧
        (¬b.standChanges → t.res = u.res ∧ t.blend.record.axles = u.blend.record.axles ∧
          ∀ x, (t.blend.record.trucks.get x).target =
            min (u.blend.record.trucks.get x).target (u.airBound x)) ∧
        InSomeOrder [fun a m => ModeSettled (a.recomputed a.demand) m, EmergencyEnds .t1, EmergencyEnds .t2]
          (u.setDemand { u.demand with emergency := rest }) t ∧
        t = (((u.setDemand t.demand).setRes t.res).setBlend t.blend).setChoice t.choice))

/-- MODE_REQ with the code of MAINT and a setting puts its link into the maintenance request set or takes
it out, with the mode re-evaluated where the set changes; another code or setting is refused with
REFUSED_RANGE, the M-link with REFUSED_KIND. The answer holds the set and the mode (R30). -/
def Obligations.ModeRequest : Prop :=
  (∀ (r : Req) (s u : State), s.Takes 37 r u →
    (r.selector ≠ 2 ∨ 1 < r.words.w1.toNat →
      exec (.modeReq r) s = .next (u.answered 37 r .refusedRange {})) ∧
    (r.selector = 2 → r.words.w1.toNat ≤ 1 → ∃ t, exec (.modeReq r) s =
        .next (t.answered 37 r .ok (dataOf [t.demand.maint.code, modeCode t.demand.mode])) ∧
      (u.demand.maint.has r.link = decide (r.words.w1 = 1) → t = u) ∧
      (u.demand.maint.has r.link ≠ decide (r.words.w1 = 1) → ModeSettled
        (u.setDemand { u.demand with maint := u.demand.maint.put r.link (decide (r.words.w1 = 1)) }) t))) ∧
  (∀ (r : Req) (s : State), s.Serving r.link → r.link = .m →
    exec (.modeReq r) s = .next ((s.arrive r.link).answered 37 r .refusedKind {}))

/-! The Effort Resource Table -/

/-- WRITE_RES passes its checks in order: an unknown resource or field code is refused with REFUSED_RANGE,
a write of the members field from P or A and a write from a link that is no member with REFUSED_MEMBER, a
value outside the field's range with REFUSED_RANGE. A write that passes is answered with the entry as it
then stands; one that gives a field the value it holds changes nothing (R53, R54). -/
def Obligations.WriteResChecks : Prop :=
  ∀ (r : Req) (s u : State), s.Takes 48 r u →
    (r.selector = 0 ∨ 8 < r.selector.toNat ∨ 7 < r.field.toNat →
      exec (.writeRes r) s = .next (u.answered 48 r .refusedRange {})) ∧
    ∀ x f, resourceOf r.selector.toNat = some x → fieldOf r.field.toNat = some f →
      let e : Entry := match x with
        | .electric k => u.res.electric.get k
        | .air y => u.res.air.get y
      let fits : Prop := match f with
        | .members => r.words.w1.toNat ≤ 7
        | .ceiling => e.floor ≤ r.words.w1.toNat ∧ r.words.w1.toNat ≤ match x with
          | .electric _ => 1000
          | .air _ => u.params.pServiceMax
        | .floor => r.words.w1.toNat ≤ e.ceiling
        | .riseStep => r.words.w1.toNat ≤ match x with
          | .electric _ => 1000
          | .air _ => 500
        | .remapStand | .remapLockout => r.words.w1.toNat ≤ 3
        | .remapLinkLoss => 1 ≤ r.words.w1.toNat ∧ r.words.w1.toNat ≤ 3
        | .policy => r.words.w1.toNat ≤ 1
      let may : Prop := r.link = .m ∨ (f ≠ .members ∧ e.members.has r.link = true)
      (¬may → exec (.writeRes r) s = .next (u.answered 48 r .refusedMember {})) ∧
      (may → ¬fits → exec (.writeRes r) s = .next (u.answered 48 r .refusedRange {})) ∧
      (may → fits → ∃ t, exec (.writeRes r) s = .next (t.answered 48 r .ok (t.resourceWords x)) ∧
        (e.write f r.words.w1.toNat = e → t = u))

/-- An accepted WRITE_RES that changes its entry replaces the field, derives the state anew after a write
of the members or a remap field, and sends the reduction that a bound below the present command calls for;
nothing else differs (R47, R49, R50, R51, R52, R54). -/
def Obligations.WriteResEffect : Prop :=
  ∀ (r : Req) (s u : State) (f : Field), s.Takes 48 r u → fieldOf r.field.toNat = some f →
    (∀ k, resourceOf r.selector.toNat = some (.electric k) → u.mayWrite r.link (.electric k) f = true →
      u.fieldOk (.electric k) f r.words.w1.toNat = true →
      (u.res.electric.get k).write f r.words.w1.toNat ≠ u.res.electric.get k →
        ∃ t w, exec (.writeRes r) s = .next (t.answered 48 r .ok w) ∧
          ElectricWritten u t k f r.words.w1.toNat) ∧
    (∀ x, resourceOf r.selector.toNat = some (.air x) → u.mayWrite r.link (.air x) f = true →
      u.fieldOk (.air x) f r.words.w1.toNat = true →
      (u.res.air.get x).write f r.words.w1.toNat ≠ u.res.air.get x →
        ∃ t w, exec (.writeRes r) s = .next (t.answered 48 r .ok w) ∧
          AirWritten u t x f r.words.w1.toNat)

/-- READ_RES answers with the thirteen fields of the entry and its actuator's figures and changes nothing
else; a resource code outside 1 to 8 is refused with REFUSED_RANGE (R38, R56). -/
def Obligations.ResourceReads : Prop :=
  ∀ (r : Req) (s u : State), s.Takes 49 r u →
    (∀ k, r.selector.toNat = axleNo k →
      let e := u.res.electric.get k
      let x := u.blend.record.axles.get k
      exec (.readRes r) s = .next (u.answered 49 r .ok
        (dataOf [e.members.code, e.ceiling, e.floor, e.riseStep, resStateCode e.remapStand,
          resStateCode e.remapLinkLoss, resStateCode e.remapLockout, policyCode e.policy,
          resStateCode e.state, bit e.stand + 2 * bit e.linkLoss + 4 * bit e.lockout, x.target, x.command,
          bit x.ramping]))) ∧
    (∀ y, r.selector.toNat = 6 + truckNo y →
      let e := u.res.air.get y
      let x := u.blend.record.trucks.get y
      exec (.readRes r) s = .next (u.answered 49 r .ok
        (dataOf [e.members.code, e.ceiling, e.floor, e.riseStep, resStateCode e.remapStand,
          resStateCode e.remapLinkLoss, resStateCode e.remapLockout, policyCode e.policy,
          resStateCode e.state, bit e.stand + 2 * bit e.linkLoss + 4 * bit e.lockout, x.target, x.command,
          bit x.ramping]))) ∧
    (r.selector = 0 ∨ 8 < r.selector.toNat →
      exec (.readRes r) s = .next (u.answered 49 r .refusedRange {}))

/-! The blending computation -/

/-- The water-filling method: no share exceeds its cap; the shares sum to the lesser of the amount and the
sum of the caps; an item whose share lies more than one unit below another's has its cap; and of two items
not taken at their caps the lower-numbered has the other's share or one unit more (R62). -/
def Obligations.WaterFilling : Prop :=
  ∀ (amount : Nat) (items : List Item62), (items.map Item62.no).Nodup →
    let share := fun x : Item62 => shareOf (waterFill amount items) x.no
    (∀ x ∈ items, (share x).amount ≤ x.cap ∧ ((share x).atCap = true → (share x).amount = x.cap)) ∧
    (items.map fun x => (share x).amount).sum = min amount (items.map Item62.cap).sum ∧
    (∀ x ∈ items, ∀ y ∈ items, (share x).amount + 1 < (share y).amount → (share x).amount = x.cap) ∧
    (∀ x ∈ items, ∀ y ∈ items, (share x).atCap = false → (share y).atCap = false → x.no < y.no →
      (share y).amount ≤ (share x).amount ∧ (share x).amount ≤ (share y).amount + 1)

/-- A blend computation gives every axle its water-filling share as target, ramps its command, records the
limiting reason, and credits the lesser of command and achieved effort; the targets keep to their caps and
sum to the lesser of D_tot and the caps' sum (R60, R61, R63 to R66). -/
def Obligations.ElectricComputation : Prop :=
  ∀ s : State, s.phase = .running → s.runOver s.blend.period → ∃ t, exec .blendPeriodExpiry s = .next t ∧
    let rec' := t.blend.record
    (∀ k,
      let x := rec'.axles.get k
      let e := s.res.electric.get k
      let sh := s.axleShare k
      x.target = sh.amount ∧ x.target ≤ s.capOf k ∧
      x.command = (if s.command k < x.target ∧ 0 < e.riseStep then min x.target (s.command k + e.riseStep)
        else x.target) ∧
      x.ramping = decide (x.command < x.target) ∧
      x.reason =
        (if sh.atCap = true ∧ e.state ≠ .active ∧ s.capTerm k = s.capOf k then .state
        else if sh.atCap = true ∧ (s.slide.axles.get k).limit = s.capOf k then .adhesion
        else if sh.atCap = true ∧ s.posted.availability k = s.capOf k then .avail
        else if sh.atCap = true then .ceiling
        else if x.command < x.target then .ramp else .share) ∧
      (e.state = .off → x.target = 0 ∧ x.command = 0 ∧ x.reason = .state)) ∧
    rec'.dTot = s.demand.dTot ∧
    sumAxles (fun k => (rec'.axles.get k).target) = min s.demand.dTot (sumAxles s.capOf) ∧
    rec'.eCred = sumAxles (fun k => min (rec'.axles.get k).command (s.posted.achieved k)) ∧
    rec'.eCred ≤ rec'.dTot

/-- A blend computation shares what the credited effort leaves between the trucks, converts each share to a
pressure, takes it through the seven stages and ramps it; in emergency a truck whose resource is not OFF
and whose action is not DUMP goes to P_EMER at once (R67 to R72). -/
def Obligations.AirComputation : Prop :=
  ∀ s : State, s.phase = .running → s.runOver s.blend.period → ∃ t, exec .blendPeriodExpiry s = .next t ∧
    let rec' := t.blend.record
    let left := rec'.dTot - rec'.eCred
    (rec'.trucks.get .t1).share + (rec'.trucks.get .t2).share =
      min left (s.airCapOf .t1 + s.airCapOf .t2) ∧
    ∀ y,
      let x := rec'.trucks.get y
      x.share = s.airShareOf left y ∧ x.share ≤ s.airCapOf y ∧
      x.roundedUp = (decide (0 < x.share) && decide (100 * x.share % s.params.gain.get y ≠ 0)) ∧
      x.target = (if (s.res.air.get y).state = .off then 0
        else if s.atEmergencyPressure y then s.params.pEmer
        else s.pressureStages y x.share x.roundedUp) ∧
      x.command = (if s.atEmergencyPressure y then s.params.pEmer
        else if s.pressure y < x.target ∧ 0 < (s.res.air.get y).riseStep then
          min x.target (s.pressure y + (s.res.air.get y).riseStep)
        else x.target) ∧
      x.ramping = decide (x.command < x.target) ∧
      x.action = (s.slide.trucks.get y).action

/-- A blend computation numbers the record anew with revision 0, enters the residual, the worst classes and
the emergency flag, restarts the period timer, governs the shortfall and deviation timers, and counts event
20 once if an axle ramps; nothing outside the Blend Unit and the counters differs (R59, R64, R73 to
R77). -/
def Obligations.ComputationRecord : Prop :=
  ∀ s : State, s.phase = .running → s.runOver s.blend.period → ∃ t, exec .blendPeriodExpiry s = .next t ∧
    let rec' := t.blend.record
    rec'.period = (if s.blend.record.period < 65535 then s.blend.record.period + 1 else 0) ∧
    rec'.revision = 0 ∧
    rec'.residual = rec'.dTot - rec'.eCred - (rec'.trucks.get .t1).share - (rec'.trucks.get .t2).share ∧
    rec'.worst = s.posted.worst ∧ rec'.emergency = s.demand.emergency.any ∧
    t.blend.period = some ⟨s.now, s.params.tBlend⟩ ∧
    (rec'.residual ≤ s.params.shortThr → t.blend.short = none ∧ t.blend.shortRaised = false) ∧
    (s.params.shortThr < rec'.residual → t.blend.shortRaised = s.blend.shortRaised ∧
      t.blend.short = if s.blend.short = none ∧ s.blend.shortRaised = false then
        some ⟨s.now, s.params.shortTime⟩ else s.blend.short) ∧
    (∀ y,
      let x := s.posted.ap.get y
      let al := rec'.trucks.get y
      let d := s.blend.dev.get y
      let apart := al.command + s.params.devTol < x.lastValue ∨ x.lastValue + s.params.devTol < al.command
      (al.ramping = false → x.cls = .valid ∨ x.cls = .clamped → apart →
        (t.blend.dev.get y).raised = d.raised ∧ (t.blend.dev.get y).run = match d.run with
          | .stopped => if d.raised then .stopped else .running s.now 0
          | .running since acc => .running since acc
          | .paused acc => .running s.now acc) ∧
      (al.ramping = false → x.cls = .stale →
        (t.blend.dev.get y).raised = d.raised ∧ (t.blend.dev.get y).run = match d.run with
          | .stopped => .stopped
          | .running since acc => .paused (acc + (s.now - since).toNat)
          | .paused acc => .paused acc) ∧
      (al.ramping = true ∨ x.cls = .fault ∨ x.cls = .absent ∨
          ((x.cls = .valid ∨ x.cls = .clamped) ∧ ¬apart) → t.blend.dev.get y = ⟨.stopped, false⟩)) ∧
    t.counters = (if allAxles.any fun k => (rec'.axles.get k).ramping then s.count 20 else s).counters ∧
    t = (s.setBlend t.blend).setCounters t.counters

/-- The shortfall timer's expiry raises SHORTFALL for the locomotive, counts event 15 and marks the episode
raised; a truck's deviation timer's expiry raises AIR_DEVIATION for the truck and marks its episode (R74,
R75). An expiry that is not due does not happen (log 3). -/
def Obligations.BlendTimerExpiries : Prop :=
  ∀ s : State, s.phase = .running →
    (s.runOver s.blend.short → ∃ b,
        Raised (s.setBlend { s.blend with short := none, shortRaised := true }) b .shortfall 0 ∧
        exec .shortfallTimerExpiry s = .next (b.count 15)) ∧
    (¬s.runOver s.blend.short → exec .shortfallTimerExpiry s = .next s) ∧
    (∀ y since acc, (s.blend.dev.get y).run = .running since acc →
      (s.params.devTime ≤ acc + (s.now - since).toNat →
        ∃ b, Raised (s.setBlend { s.blend with dev := s.blend.dev.set y ⟨.stopped, true⟩ }) b .deviation
          (truckNo y) ∧ exec (.airDeviationTimerExpiry y) s = .next b) ∧
      (acc + (s.now - since).toNat < s.params.devTime →
        exec (.airDeviationTimerExpiry y) s = .next s)) ∧
    (∀ y, (∀ since acc, (s.blend.dev.get y).run ≠ .running since acc) →
      exec (.airDeviationTimerExpiry y) s = .next s) ∧
    (¬s.runOver s.blend.period → exec .blendPeriodExpiry s = .next s)

/-- Two reductions for one actuator leave the lowest bound, or the figure already lower, whichever is taken
first; a cut raises nothing and touches the other actuators' figures never (R79, R80, R81). -/
def Obligations.CutsTakeTheLowestBound : Prop :=
  (∀ (s : State) (k : Axle) (a b : Nat) (v w : Reason),
    let t := (s.reduceAxle k a v).reduceAxle k b w
    let x := s.blend.record.axles.get k
    let y := t.blend.record.axles.get k
    y.target = min x.target (min a b) ∧ (x.command ≤ x.target → y.command = min x.command (min a b)) ∧
    (x.ramping = decide (x.command < x.target) → y.ramping = decide (y.command < y.target)) ∧
    (∀ j, j ≠ k → t.blend.record.axles.get j = s.blend.record.axles.get j) ∧ OnlyCut s.blend t.blend ∧
    t = s.setRecord { s.blend.record with
      revision := t.blend.record.revision, axles := t.blend.record.axles }) ∧
  (∀ (s : State) (k : Truck) (a b : Nat),
    let t := (s.reduceTruck k a).reduceTruck k b
    let x := s.blend.record.trucks.get k
    let y := t.blend.record.trucks.get k
    y.target = min x.target (min a b) ∧ (x.command ≤ x.target → y.command = min x.command (min a b)) ∧
    (x.ramping = decide (x.command < x.target) → y.ramping = decide (y.command < y.target)) ∧
    (∀ j, j ≠ k → t.blend.record.trucks.get j = s.blend.record.trucks.get j) ∧ OnlyCut s.blend t.blend ∧
    t = s.setRecord { s.blend.record with
      revision := t.blend.record.revision, trucks := t.blend.record.trucks })

/-! Axle speed and reference speed -/

/-- A sample of a tachometer input, under either row of the table: the first one after a reset sets the
level; one that differs from the level begins a qualification; its third sample accepts the edge unless
only the first read the new level, and counts noise unless all three did. An accepted rising edge is handed
over with the time of its first sample (R87, R88, R89; that the two rows both stand for the next sample is
the model's reading, log 28). -/
def Obligations.TachSamples : Prop :=
  ∀ (k : Axle) (high : Bool) (s : State) (c : Instr), s.phase = .running →
    c = .tachSample k high ∨ c = .tachQualification k high →
    let x := s.tach.get k
    let after := fun y : TachInput => s.setTach (s.tach.set k y)
    (x.sampled = false → exec c s = .next (after { x with level := high, sampled := true })) ∧
    (x.sampled = true →
      (x.qual = none → high = x.level → exec c s = .next s) ∧
      (x.qual = none → high ≠ x.level →
        exec c s = .next (after { x with qual := some ⟨s.clock.us, none⟩ })) ∧
      (∀ time, x.qual = some ⟨time, none⟩ →
        exec c s = .next (after { x with qual := some ⟨time, some high⟩ })) ∧
      (∀ time second, x.qual = some ⟨time, some second⟩ →
        let noise := if second ≠ x.level ∧ high ≠ x.level then x.noise
          else if x.noise < 255 then x.noise + 1 else x.noise
        (second = x.level → high = x.level →
          exec c s = .next (after { x with qual := none, noise := noise })) ∧
        (second ≠ x.level ∨ high ≠ x.level → x.level = true →
          exec c s = .next (after ⟨false, true, none, noise⟩)) ∧
        (second ≠ x.level ∨ high ≠ x.level → x.level = false →
          exec c s = .next ((after ⟨true, true, none, noise⟩).setSpeed
            { s.speed with
              axles := s.speed.axles.set k
                ((s.speed.axles.get k).withEdge time s.now s.params.zeroTime) }))))

/-- A window expiry takes the nine steps in order: the speed, V_ref, the open-tach timer, the standstill
timer and flag, and the slide evaluation (R95, R106); an expiry that is not due does not happen (log 3). -/
def Obligations.WindowExpirySteps : Prop :=
  ∀ (k : Axle) (s : State), s.phase = .running →
    (s.runOver (s.speed.axles.get k).window → exec (.windowExpiry k) s =
      .next (((((s.windowSpeed k).2.updateVref).governOpen k (s.windowSpeed k).1).governStill).evaluate
        k)) ∧
    (¬s.runOver (s.speed.axles.get k).window → exec (.windowExpiry k) s = .next s)

/-- Steps 1 to 5 of a window expiry form the speed by the first case of Table 5-3 that applies, settle its
class by the noise count and the bound of 16000, to which only a CLAMPED speed is saturated, form the
deceleration, restart the window timer and the noise count, and raise TACH_FAULT at an entry into FAULT (R91,
R92, R94, R95; a span of 0 leaves the figure free by log 19). -/
def Obligations.SpeedAtWindow : Prop :=
  ∀ (s : State) (k : Axle),
    let x := s.speed.axles.get k
    let a := (s.windowSpeed k).2
    let y := a.speed.axles.get k
    let b := (s.setTach (s.tach.set k { s.tach.get k with noise := 0 })).setSpeed
      { s.speed with axles := s.speed.axles.set k y }
    let c := (s.windowSpeed k).1
    c = (if x.openMark then .openTach else if 2 ≤ x.edges then .normal
      else if x.history.length = 2 then .few else if x.zeroDeclared then .zero else .unknown) ∧
    (∃ v,
      (c = .normal → x.lastEdge ≠ x.firstEdge →
        v = s.toothSpeed k (x.edges - 1) (x.lastEdge - x.firstEdge).toNat) ∧
      (∀ t₀ t₁, c = .few → x.history = [t₀, t₁] → t₁ ≠ t₀ →
        v = min (s.toothSpeed k 1 (t₁ - t₀).toNat) (s.toothSpeed k 1 (max 1 (s.clock.us - t₁).toNat))) ∧
      (c = .openTach ∨ c = .zero ∨ c = .unknown → v = 0) ∧
      y.speed = (if y.cls = .clamped then 16000 else v) ∧
      y.cls = (if s.params.noiseLimit < (s.tach.get k).noise then .fault
        else match c with
          | .openTach => .fault
          | .unknown => .absent
          | .normal | .few | .zero => if 16000 < v then .clamped else .valid)) ∧
    (∀ t, x.prevTime = some t → y.cls = .valid → x.prevCls = .valid → s.clock.us ≠ t →
      y.decel = max (-32768) (min 32767
        (((x.prevSpeed : Int) - y.speed) * 1000000 / ((s.clock.us - t).toNat : Int)))) ∧
    (x.prevTime = none ∨ y.cls ≠ .valid ∨ x.prevCls ≠ .valid → y.decel = 0) ∧
    y = { x with
      window := some ⟨s.now, s.params.window⟩, speed := y.speed, cls := y.cls, decel := y.decel
      prevTime := some s.clock.us, prevSpeed := y.speed, prevCls := y.cls, edges := 0 } ∧
    (y.cls = .fault ∧ x.cls ≠ .fault → Raised b a .tach (axleNo k)) ∧
    (y.cls ≠ .fault ∨ x.cls = .fault → a = b)

/-- An update of V_ref takes a VALID or CLAMPED ground speed as it is; otherwise the greatest speed among
the reference axles, from the second update on within the rise and decay since the last update; and it
records its time (R96, R97, R98). -/
def Obligations.ReferenceSpeed : Prop :=
  ∀ s : State,
    let t := s.updateVref
    let g := s.posted.gs
    let ground := g.cls = .valid ∨ g.cls = .clamped
    let dt := (s.now - s.speed.vrefTime).toNat
    let decay := s.params.decay * dt / 1000
    let rise := s.params.rise * dt / 1000
    t = s.setSpeed { s.speed with
      vref := t.speed.vref, firstUpdate := t.speed.firstUpdate, vrefTime := s.now } ∧
    (ground → t.speed.vref = g.last.getD 0 ∧ t.speed.firstUpdate = false) ∧
    (¬ground → ∀ k, s.reference k →
      (∀ j, s.reference j → (s.speed.axles.get j).speed ≤ (s.speed.axles.get k).speed) →
      t.speed.firstUpdate = false ∧
      t.speed.vref = if s.speed.firstUpdate then (s.speed.axles.get k).speed
        else min (min (s.speed.vref + rise) (max (s.speed.axles.get k).speed (s.speed.vref - decay)))
          16000) ∧
    (¬ground → (∀ k, ¬s.reference k) → t.speed.firstUpdate = s.speed.firstUpdate ∧
      t.speed.vref = if s.speed.firstUpdate then 0 else min (s.speed.vref - decay) 16000)

/-- At a window expiry the open-tach timer runs while a speed of 0 from case 3 or 4 meets a V_ref at or
above OPEN_SPEED, and is stopped otherwise; the standstill timer runs while the rest condition holds and
the flag is clear, and is stopped otherwise; a set flag is cleared once an axle turns, with the mode (R93,
R99, R100). -/
def Obligations.OpenTachAndStandstill : Prop :=
  (∀ (s : State) (k : Axle) (c : SpeedCase),
    let x := s.speed.axles.get k
    let runs := (c = .few ∨ c = .zero) ∧ x.speed = 0 ∧ s.params.openSpeed ≤ s.speed.vref ∧
      x.openMark = false
    (s.governOpen k c).speed.axles.get k =
      { x with openTimer := ((s.governOpen k c).speed.axles.get k).openTimer } ∧
    (runs → ((s.governOpen k c).speed.axles.get k).openTimer =
      if x.openTimer = none then some ⟨s.now, s.params.openTime⟩ else x.openTimer) ∧
    (¬runs → ((s.governOpen k c).speed.axles.get k).openTimer = none) ∧
    s.governOpen k c = s.setSpeed
      { s.speed with axles := s.speed.axles.set k ((s.governOpen k c).speed.axles.get k) }) ∧
  ∀ s : State,
    let turns := ∃ k, (s.speed.axles.get k).cls = .valid ∧ 0 < (s.speed.axles.get k).speed
    (s.restCondition → s.speed.standstill = false → s.speed.still = none →
      s.governStill = s.setSpeed { s.speed with still := some ⟨s.now, s.params.stillTime⟩ }) ∧
    (s.restCondition → s.speed.standstill = true ∨ s.speed.still ≠ none → s.governStill = s) ∧
    (¬s.restCondition → s.speed.standstill = true → turns →
      ModeSettled (s.setSpeed { s.speed with standstill := false, still := none }) s.governStill) ∧
    (¬s.restCondition → s.speed.standstill = false ∨ ¬turns →
      s.governStill = s.setSpeed { s.speed with still := none })

/-- A zero expiry empties the edge history and sets the zero-declared mark; an open-tach expiry sets the
open-tach mark, empties the history and makes the speed 0 and FAULT, with TACH_FAULT unless it was FAULT
already; a standstill expiry sets the standstill flag, with the mode (R90, R93, R99). An expiry that is not
due, its timer stopped or restarted since, does not happen (log 3). -/
def Obligations.SpeedTimerExpiries : Prop :=
  ∀ s : State, s.phase = .running →
    (∀ k,
      let x := s.speed.axles.get k
      let after := fun y : SpeedAxle => s.setSpeed { s.speed with axles := s.speed.axles.set k y }
      (s.runOver x.zero → exec (.zeroTimerExpiry k) s =
        .next (after { x with zero := none, history := [], zeroDeclared := true })) ∧
      (¬s.runOver x.zero → exec (.zeroTimerExpiry k) s = .next s) ∧
      (s.runOver x.openTimer →
        let b := after { x with openTimer := none, openMark := true, history := [], speed := 0, cls := .fault }
        (x.cls = .fault → exec (.openTachTimerExpiry k) s = .next b) ∧
        (x.cls ≠ .fault → ∃ t, exec (.openTachTimerExpiry k) s = .next t ∧
          Raised b t .tach (axleNo k))) ∧
      (¬s.runOver x.openTimer → exec (.openTachTimerExpiry k) s = .next s)) ∧
    (s.runOver s.speed.still → ∃ t, exec .standstillTimerExpiry s = .next t ∧
      ModeSettled (s.setSpeed { s.speed with standstill := true, still := none }) t) ∧
    (¬s.runOver s.speed.still → exec .standstillTimerExpiry s = .next s)

/-! Wheel slide protection -/

/-- What an evaluation makes of its axle: every transition of Table 6-2 with its limit, the pruned onset
history, the state entry and recover start times, and the recorded comparison and time (R105 to R116). -/
def Obligations.SlideTransitions : Prop :=
  ∀ (s : State) (k : Axle),
    let x := s.slide.axles.get k
    let v := s.speed.axles.get k
    let p := s.params
    let y := (s.evaluate k).slide.axles.get k
    let inhibited := s.speed.vref < p.vMin ∨ s.speed.standstill = true
    let creep := s.creepNow k
    let timer := (s.now - x.entryTime).toNat
    let recovery := (s.now - x.recoverStart).toNat
    y.lastEval = some s.now ∧
    y.comparison = some (if v.cls ≠ .valid then .unordered else if inhibited then .inhibited
      else .creep creep) ∧
    y.entryTime = (if y.state = x.state then x.entryTime else s.now) ∧
    (x.state = .lockout → s.Goes k y .lockout 0) ∧
    (x.state ≠ .lockout → v.cls ≠ .valid →
      s.Goes k y (if v.cls = .fault ∨ v.cls = .clamped then .indeterminate else x.state) x.limit) ∧
    (x.state ≠ .lockout → v.cls = .valid → inhibited → s.Goes k y .normal 1000) ∧
    (v.cls = .valid → ¬inhibited →
      (x.state = .normal →
        if p.sSuspect ≤ creep ∨ (p.aDet : Int) ≤ v.decel then s.Goes k y .suspect (s.command k)
        else s.Goes k y .normal x.limit) ∧
      (x.state = .suspect →
        if p.sSlide ≤ creep ∨ (p.suspectMax ≤ timer ∧ p.sSuspect ≤ creep) then s.Onset k y
        else if creep < p.sRelease ∧ v.decel < p.aDet then s.Goes k y .normal 1000
        else s.Goes k y .suspect x.limit) ∧
      (x.state = .sliding →
        if creep < p.sRelease then s.Goes k y .recovering x.limit ∧ y.recoverStart = s.now
        else if p.slideMax ≤ timer then s.Goes k y .lockout 0
        else s.Goes k y .sliding x.limit) ∧
      (x.state = .recovering →
        if p.sSlide ≤ creep then s.Onset k y
        else if creep < p.sRelease ∧ p.recoverTime ≤ recovery then s.Goes k y .normal 1000
        else y.history = s.keptHistory k ∧ y.state = .recovering ∧
          y.recoverStart = (if p.sRelease ≤ creep then s.now else x.recoverStart) ∧
          ∀ last, x.lastEval = some last →
            y.limit = min 1000 (x.limit + p.recoverRate * (s.now - last).toNat / 100)) ∧
      (x.state = .indeterminate →
        if p.sSuspect ≤ creep then s.Goes k y .suspect (s.command k) else s.Goes k y .normal 1000))

/-- What an evaluation hands on: the triggers and events of an onset and of a lockout, where an onset that
ends in LOCKOUT sends its two triggers in an order left open (log 5); the truck's action re-derived at a
change of state, with event 9 at an entry into DUMP and the DUMP_MAX then in force as the run of its timer,
which stops short of it where a dump ends with its expiry due (log 22); and, in an order left open (log 5), exactly these cuts and no other: of the axle to a fallen limit
with reason ADHESION, of the truck to its held pressure at an entry into KEEP and to 0 at one into DUMP, and
at a lockout those of the LOCKOUT conditions, with BRK_FAULT. Nothing else differs (R106, R115, R117, R118,
R120 to R124, R48, R36). -/
def Obligations.SlideConsequences : Prop :=
  ∀ (s : State) (k : Axle),
    let t := s.evaluate k
    let x := s.slide.axles.get k
    let y := t.slide.axles.get k
    let b := s.setSlide { s.slide with axles := s.slide.axles.set k y }
    let truck := truckOf k
    let old := (s.slide.trucks.get truck).action
    let onset := y.history = s.keptHistory k ++ [s.now]
    let locked := y.state = .lockout ∧ x.state ≠ .lockout
    let dumps := (t.slide.trucks.get truck).action = .dump ∧ old ≠ .dump
    let keeps := (t.slide.trucks.get truck).action = .keep ∧ old ≠ .keep
    t.slide.axles = s.slide.axles.set k y ∧
    (∃ sent : List Trigger, t.sent = s.sent ++ sent ∧
      sent.Perm ((if onset then [⟨.slideOnset, BitVec.ofNat 8 (axleNo k)⟩] else []) ++
        (if locked then [⟨.axleLockout, BitVec.ofNat 8 (axleNo k)⟩] else []))) ∧
    t.counters = (((if onset then [axleNo k, 7] else []) ++ (if locked then [8] else []) ++
      (if dumps then [9] else [])).foldl State.count s).counters ∧
    (y.state = x.state → t.slide.trucks = s.slide.trucks ∧ t.dump = s.dump) ∧
    (y.state ≠ x.state → ActionSettled b t truck) ∧
    InSomeOrder
      ([fun a m => if y.limit < x.limit then AxleReduced k y.limit .adhesion a m else m = a,
        ActionFelt truck old] ++ (if locked then [LockoutFelt k] else []))
      ((((s.setSlide t.slide).setDump t.dump).setSent t.sent).setCounters t.counters) t ∧
    OnlyCut s.blend t.blend ∧
    (y.limit < x.limit → (t.blend.record.axles.get k).target ≤ y.limit ∧
      (s.command k ≤ (s.blend.record.axles.get k).target → t.command k ≤ y.limit)) ∧
    (dumps → (t.blend.record.trucks.get truck).target = 0 ∧
      (s.pressure truck ≤ (s.blend.record.trucks.get truck).target → t.pressure truck = 0)) ∧
    (keeps → (t.slide.trucks.get truck).held = s.pressure truck ∧
      (t.blend.record.trucks.get truck).target ≤ s.pressure truck) ∧
    (∀ j, j ≠ k → t.blend.record.axles.get j = s.blend.record.axles.get j) ∧
    (∀ j, j ≠ truck → t.blend.record.trucks.get j = s.blend.record.trucks.get j) ∧
    (¬locked → t.res = s.res ∧ t.brkFault = s.brkFault) ∧
    (locked →
      t.res.electric.get k =
        (let e : Entry := { s.res.electric.get k with lockout := true }
        { e with state := e.derive }) ∧
      t.res.air.get truck =
        (let e : Entry := { s.res.air.get truck with lockout := true }
        { e with state := e.derive }) ∧
      (∀ j, j ≠ k → t.res.electric.get j = s.res.electric.get j) ∧
      (∀ j, j ≠ truck → t.res.air.get j = s.res.air.get j) ∧
      t.brkFault = true) ∧
    t = (((((((s.setSlide t.slide).setDump t.dump).setSent t.sent).setCounters t.counters).setBlend
      t.blend).setRes t.res).setBrkFault t.brkFault).setChoice t.choice

/-- The expiry of a dumping truck's dump timer sets the dump-exhausted mark with the accumulated time at
DUMP_MAX, ends the dump, sends DUMP_TIMEOUT and counts event 10: the truck enters KEEP with its pressure
command held, and cut to it, while an axle slides, recovers or is suspected, and NONE otherwise (R80, R120
to R123; the DUMP_MAX is that of the entry, log 22). An expiry that is not due does not happen (log 3). -/
def Obligations.DumpTimerExpires : Prop :=
  ∀ (x : Truck) (s : State), s.phase = .running →
    ((s.slide.trucks.get x).dumpRun = none → exec (.dumpTimerExpiry x) s = .next s) ∧
    (∀ r, (s.slide.trucks.get x).dumpRun = some r →
      (s.slide.trucks.get x).dumpAcc + (s.now - r.since).toNat < r.limit →
        exec (.dumpTimerExpiry x) s = .next s) ∧
    (∀ r, (s.slide.trucks.get x).dumpRun = some r → (s.slide.trucks.get x).action = .dump →
      r.limit ≤ (s.slide.trucks.get x).dumpAcc + (s.now - r.since).toNat →
      ∃ t, exec (.dumpTimerExpiry x) s = .next t ∧
        t.slide.trucks.get x = (if s.anySlide x [.suspect, .recovering, .sliding] then
          ⟨.keep, s.pressure x, r.limit, none, true⟩
          else ⟨.none, (s.slide.trucks.get x).held, 0, none, false⟩) ∧
        t.dump = s.dump.set x false ∧
        t.sent = s.sent ++ [⟨.dumpTimeout, BitVec.ofNat 8 (truckNo x)⟩] ∧
        t.counters = (s.count 10).counters ∧ OnlyCut s.blend t.blend ∧
        (s.anySlide x [.suspect, .recovering, .sliding] →
          (t.blend.record.trucks.get x).target ≤ s.pressure x) ∧
        ActionFelt x .dump ((((s.setSlide { s.slide with
          trucks := s.slide.trucks.set x (t.slide.trucks.get x) }).setDump t.dump).setSent t.sent).setCounters
          t.counters) t ∧
        t = ((((s.setSlide { s.slide with trucks := s.slide.trucks.set x (t.slide.trucks.get x) }).setDump
          t.dump).setSent t.sent).setCounters t.counters).setBlend t.blend)

/-- CLEAR_LOCKOUT at standstill takes an axle in LOCKOUT to NORMAL with L_k 1000 and an empty onset
history; its truck's action is derived anew, and the LOCKOUT conditions of its entry and its truck's and
BRK_FAULT follow, with exactly the cuts that these call for; the other entries stay. For an axle not in
LOCKOUT it changes nothing; it is refused with REFUSED_RANGE for a number outside 1 to 6 and with
REFUSED_STATE while the standstill flag is clear (R36, R48 to R50, R119 to R122; log 22 for the DUMP_MAX of
an entry into DUMP). -/
def Obligations.ClearLockout : Prop :=
  ∀ (r : Req) (s u : State), s.Takes 70 r u →
    (r.selector = 0 ∨ 6 < r.selector.toNat →
      exec (.clearLockout r) s = .next (u.answered 70 r .refusedRange {})) ∧
    ∀ k, r.selector.toNat = axleNo k →
      let x := u.slide.axles.get k
      let words := fun z : SlideAxle => dataOf [slideStateCode z.state, z.limit, z.history.length]
      (u.speed.standstill = false →
        exec (.clearLockout r) s = .next (u.answered 70 r .refusedState {})) ∧
      (u.speed.standstill = true → x.state ≠ .lockout →
        exec (.clearLockout r) s = .next (u.answered 70 r .ok (words x))) ∧
      (u.speed.standstill = true → x.state = .lockout → ∃ t,
        exec (.clearLockout r) s = .next (t.answered 70 r .ok (words (t.slide.axles.get k))) ∧
        t.slide.axles = u.slide.axles.set k
          { x with state := .normal, limit := 1000, history := [], entryTime := u.now } ∧
        t.res.electric.get k =
          (let e : Entry := { u.res.electric.get k with lockout := false }
          { e with state := e.derive }) ∧
        t.res.air.get (truckOf k) =
          (let e : Entry := { u.res.air.get (truckOf k) with lockout := t.truckLockedOut (truckOf k) }
          { e with state := e.derive }) ∧
        (∀ j, j ≠ k → t.res.electric.get j = u.res.electric.get j) ∧
        (∀ j, j ≠ truckOf k → t.res.air.get j = u.res.air.get j) ∧
        t.brkFault = t.brakeFaulty ∧ t.sent = u.sent ∧ OnlyCut u.blend t.blend ∧
        ActionSettled (u.setSlide { u.slide with axles := t.slide.axles }) t (truckOf k) ∧
        (∃ m, LockoutFelt k (((u.setSlide t.slide).setDump t.dump).setCounters t.counters) m ∧
          ActionFelt (truckOf k) (u.slide.trucks.get (truckOf k)).action m t) ∧
        (u.actionFor (truckOf k) = (u.slide.trucks.get (truckOf k)).action →
          t.slide.trucks = u.slide.trucks ∧ t.dump = u.dump ∧ t.counters = u.counters) ∧
        t = (((((u.setSlide t.slide).setRes t.res).setBrkFault t.brkFault).setBlend t.blend).setDump
          t.dump).setCounters t.counters)

/-! The monitoring computer's requests -/

/-- READ_ALLOC answers with the part of the allocation record that its selector names, READ_STATUS with
the general state or the first-source details, READ_AXLE with the axle's figures, READ_PARAM with the
value in force and the least and greatest values a write would accept (log 18); they change nothing else,
and a selector outside the range is refused with REFUSED_RANGE (R78, R180, R181, R182). A speed above 65535,
which only a noise FAULT can leave, does not fit its word, and the word is then open (R92, log 33). -/
def Obligations.StatusReads : Prop :=
  ∀ (r : Req) (s u : State),
    (s.Takes 50 r u →
      let x := u.blend.record
      let a := fun k => x.axles.get k
      let y := fun t => x.trucks.get t
      let pair := fun j k => reasonCode (a j).reason * 256 + reasonCode (a k).reason
      let ramps := axleSetCode fun k => (a k).ramping
      let answer := fun ns => exec (.readAlloc r) s = .next (u.answered 50 r .ok (dataOf ns))
      (r.selector = 0 → answer [x.period, x.revision, x.dTot, x.eCred, (a .a1).command, (a .a2).command,
        (a .a3).command, (a .a4).command, (a .a5).command, (a .a6).command, ramps, x.residual,
        bit x.emergency]) ∧
      (r.selector = 1 → answer [x.period, x.revision, (a .a1).target, (a .a2).target, (a .a3).target,
        (a .a4).target, (a .a5).target, (a .a6).target, pair .a1 .a2, pair .a3 .a4, pair .a5 .a6, ramps,
        bit x.emergency]) ∧
      (r.selector = 2 → answer [x.period, x.revision, (y .t1).share, (y .t2).share, (y .t1).target,
        (y .t2).target, (y .t1).command, (y .t2).command, truckSetCode fun t => (y t).roundedUp,
        actionCode (y .t1).action, actionCode (y .t2).action, truckSetCode fun t => (y t).ramping,
        bit x.emergency]) ∧
      (r.selector = 3 → answer [x.period, x.revision, clsCode x.worst.demand, clsCode x.worst.indep,
        clsCode x.worst.avail, clsCode x.worst.achieved, clsCode x.worst.pressure, clsCode x.worst.ground,
        0, 0, 0, 0, bit x.emergency]) ∧
      (3 < r.selector.toNat → exec (.readAlloc r) s = .next (u.answered 50 r .refusedRange {}))) ∧
    (s.Takes 51 r u →
      let answer := fun ws => exec (.readStatus r) s = .next (u.answered 51 r .ok (wordsOf ws))
      let kind := fun k => match (u.exc.get k).source with
        | some x => [BitVec.setWidth 16 x.detail, hi16 x.stamp, lo16 x.stamp]
        | none => [0, 0, 0]
      (r.selector = 0 → answer [half (modeCode u.demand.mode), half (bit u.speed.standstill),
        half u.speed.vref, half (linkStatesCode u.linkState), half u.flagsCode, half u.masksCode,
        half u.demand.penalty.code, half u.demand.emergency.code, half u.demand.maint.code,
        half (bit u.memLost), half (bit u.brkFault), hi16 u.now, lo16 u.now]) ∧
      (r.selector = 1 → answer (kind .clamped ++ kind .stale ++ kind .fault)) ∧
      (r.selector = 2 → answer (kind .tach ++ kind .shortfall ++ kind .deviation)) ∧
      (2 < r.selector.toNat → exec (.readStatus r) s = .next (u.answered 51 r .refusedRange {}))) ∧
    (s.Takes 52 r u →
      (∀ k, r.selector.toNat = axleNo k →
        let v := u.speed.axles.get k
        let x := u.slide.axles.get k
        let shown := if v.cls = .absent then 0 else v.speed
        ∃ h : Half, (shown ≤ 65535 → h = half shown) ∧
          exec (.readAxle r) s = .next (u.answered 52 r .ok
            (dataOf [axleNo k, h.toNat, clsCode v.cls, slideStateCode x.state,
              x.limit, match x.comparison with
                | some (.creep c) => c
                | _ => 0, x.history.length]))) ∧
      (r.selector = 0 ∨ 6 < r.selector.toNat →
        exec (.readAxle r) s = .next (u.answered 52 r .refusedRange {}))) ∧
    (s.Takes 53 r u →
      (∀ i, paramOf r.selector.toNat = some i → exec (.readParam r) s = .next (u.answered 53 r .ok
        (dataOf [r.selector.toNat, u.params.get i, (u.params.bounds i).1, (u.params.bounds i).2]))) ∧
      (r.selector = 0 ∨ 51 < r.selector.toNat →
        exec (.readParam r) s = .next (u.answered 53 r .refusedRange {}))) ∧
    (∀ (p : Params) (i : ParamId), p.Legal →
      p.accepts i (p.bounds i).1 = true ∧ p.accepts i (p.bounds i).2 = true ∧
      ∀ v, p.accepts i v = true → (p.bounds i).1 ≤ v ∧ v ≤ (p.bounds i).2)

/-- WRITE_PARAM passes its checks in order: an unknown id is refused with REFUSED_RANGE; an id up to 48
while the standstill flag is clear with REFUSED_STATE; a value outside the range with REFUSED_RANGE. A
write that passes replaces that parameter alone and is answered with the words of R182 as they then stand
(R183). -/
def Obligations.ParameterWrites : Prop :=
  ∀ (r : Req) (s u : State), s.Takes 64 r u →
    (r.selector = 0 ∨ 51 < r.selector.toNat →
      exec (.writeParam r) s = .next (u.answered 64 r .refusedRange {})) ∧
    ∀ i, paramOf r.selector.toNat = some i →
      let v := r.words.w1.toNat
      let may := 48 < r.selector.toNat ∨ u.speed.standstill = true
      (¬may → exec (.writeParam r) s = .next (u.answered 64 r .refusedState {})) ∧
      (may → u.params.accepts i v = false →
        exec (.writeParam r) s = .next (u.answered 64 r .refusedRange {})) ∧
      (may → u.params.accepts i v = true → ∃ t : State,
        exec (.writeParam r) s = .next (t.answered 64 r .ok
          (dataOf [r.selector.toNat, v, (t.params.bounds i).1, (t.params.bounds i).2])) ∧
        t.params.get i = v ∧ ∀ j, j ≠ i → t.params.get j = u.params.get j)

/-- What an accepted WRITE_PARAM does to running timers and present figures: the fresh, hold and good-hold
timers, the demand and the mode, the air bounds and pressure targets with the cuts and the revision, the
shortfall and deviation timers, the zero, open-tach and standstill timers, the onset histories and the link
timeout timer; every other parameter changes nothing at the write. A timer whose run is then complete
expires at once, with its exceptions and hand-offs; several expiries come in an order left open (log 5)
(R9, R35, R82, R83, R84, R102, R103, R126, R149, R177; for LOCK_COUNT see log 17, for the hold and good-hold
expiry of a VALID or CLAMPED item log 30). -/
def Obligations.ParameterEffects : Prop :=
  ∀ (r : Req) (s u : State) (i : ParamId), s.Takes 64 r u → paramOf r.selector.toNat = some i →
    needsStandstill i = false ∨ u.speed.standstill = true → u.params.accepts i r.words.w1.toNat = true →
      ∃ t w, exec (.writeParam r) s = .next (t.answered 64 r .ok w) ∧
        ParamWritten u t i r.words.w1.toNat

/-- An occurrence of an event raises by 1, up to 65535, every counter that selects it and no other.
SET_COUNTER replaces a selection and keeps the count, READ_COUNTER changes nothing, CLEAR_COUNTER in MAINT
sets a count to 0 and answers with the count before; the refusals in the order of the checks (R163, R165,
R166, R167). -/
def Obligations.CounterRequests : Prop :=
  (∀ (s : State) (n : Nat) (i : CounterNo), (s.counters.get i).count ≤ 65535 →
    let c := s.counters.get i
    (s.count n).counters.get i = if c.sel = n then { c with count := min 65535 (c.count + 1) } else c) ∧
  ∀ (r : Req) (s u : State),
    (s.Takes 96 r u →
      (3 < r.selector.toNat ∨ 63 < r.words.w1.toNat →
        exec (.setCounter r) s = .next (u.answered 96 r .refusedRange {})) ∧
      ∀ i, r.selector.toNat = counterIndex i → r.words.w1.toNat ≤ 63 →
        let c : Counter := { u.counters.get i with sel := r.words.w1.toNat }
        exec (.setCounter r) s = .next ((u.setCounters (u.counters.set i c)).answered 96 r .ok
          (dataOf [counterIndex i, c.sel, c.count]))) ∧
    (s.Takes 97 r u →
      (3 < r.selector.toNat → exec (.clearCounter r) s = .next (u.answered 97 r .refusedRange {})) ∧
      (r.selector.toNat ≤ 3 → u.demand.mode ≠ .maint →
        exec (.clearCounter r) s = .next (u.answered 97 r .refusedState {})) ∧
      ∀ i, r.selector.toNat = counterIndex i → u.demand.mode = .maint →
        let c := u.counters.get i
        exec (.clearCounter r) s =
          .next ((u.setCounters (u.counters.set i { c with count := 0 })).answered 97 r .ok
            (dataOf [counterIndex i, c.sel, c.count]))) ∧
    (s.Takes 98 r u →
      (3 < r.selector.toNat → exec (.readCounter r) s = .next (u.answered 98 r .refusedRange {})) ∧
      ∀ i, r.selector.toNat = counterIndex i →
        exec (.readCounter r) s = .next (u.answered 98 r .ok
          (dataOf [counterIndex i, (u.counters.get i).sel, (u.counters.get i).count])))

/-! Record Memory -/

/-- DIAG_SELECT replaces the diagnostic selection by a word of an area; DIAG_READ answers with the selected
pair as held and its class and changes nothing; DIAG_WRITE in MAINT stores the pair given, exactly, and
changes no other word and no working copy; the refusals in the order of the checks (R160, R161, R162). -/
def Obligations.DiagnosticRequests : Prop :=
  ∀ (r : Req) (s u : State),
    let shown := fun w : MemWord => wordsOf
      [half u.diag.area, half u.diag.index, hi16 w.data, lo16 w.data, BitVec.setWidth 16 w.check,
        match (checkWord w).cls with
        | .clean => 0
        | .corrected => 1
        | .uncorrectable => 2]
    (s.Takes 112 r u →
      let fits := r.selector.toNat < 8 ∧ r.words.w1.toNat ≤ 1030 ∨ r.selector = 8 ∧ r.words.w1.toNat ≤ 2
      (fits → exec (.diagSelect r) s = .next ((u.setDiag ⟨r.selector.toNat, r.words.w1.toNat⟩).answered 112
        r .ok { w1 := BitVec.setWidth 16 r.selector, w2 := r.words.w1 })) ∧
      (¬fits → exec (.diagSelect r) s = .next (u.answered 112 r .refusedRange {}))) ∧
    (s.Takes 113 r u →
      exec (.diagRead r) s = .next (u.answered 113 r .ok
        (shown (u.mem.read (areaAddr u.diag.area u.diag.index))))) ∧
    (s.Takes 114 r u →
      let capturing := ∃ i, u.diag.area = slotNo i ∧ (u.inc.slots.get i).state = .capturing
      (u.demand.mode ≠ .maint ∨ capturing →
        exec (.diagWrite r) s = .next (u.answered 114 r .refusedState {})) ∧
      (u.demand.mode = .maint → ¬capturing → 127 < r.words.w3.toNat →
        exec (.diagWrite r) s = .next (u.answered 114 r .refusedRange {})) ∧
      (u.demand.mode = .maint → ¬capturing → r.words.w3.toNat ≤ 127 → u.mem.wf →
        let w : MemWord := ⟨r.words.w1 ++ r.words.w2, BitVec.setWidth 7 r.words.w3⟩
        ∃ t, exec (.diagWrite r) s = .next (t.answered 114 r .ok (shown w)) ∧ t = u.setMem t.mem ∧
          t.mem.wf ∧ ∀ a, t.mem.read a =
            if a = areaAddr u.diag.area u.diag.index then w else u.mem.read a))

/-- A pair whose check value is the one computed for its data is clean, and no other is; one inverted bit
is corrected to the original codeword, two are uncorrectable, and a pair is corrected only where one bit
inverted makes it a codeword. A read writes a corrected word back and counts event 16, counts event 17 for
an uncorrectable one, and otherwise changes nothing (R153, R154). -/
def Obligations.ErrorCorrection : Prop :=
  (∀ w : MemWord, (checkWord w).cls = .clean ↔ w.check = checkOf w.data) ∧
  (∀ d : Word, checkWord (protect d) = ⟨.clean, d⟩) ∧
  (∀ (d : Word) (n : Nat), n < 39 → checkWord ((protect d).flip n) = ⟨.corrected, d⟩) ∧
  (∀ (d : Word) (n m : Nat), n < m → m < 39 →
    checkWord (((protect d).flip n).flip m) = ⟨.uncorrectable, (((protect d).flip n).flip m).data⟩) ∧
  (∀ w : MemWord, (checkWord w).cls = .corrected → ∃ n < 39, w = (protect (checkWord w).data).flip n) ∧
  ∀ (s : State) (a : Nat), s.readWord a =
    (checkWord (s.mem.read a), match (checkWord (s.mem.read a)).cls with
      | .clean => s
      | .corrected => (s.setMem (s.mem.write a (protect (checkWord (s.mem.read a)).data))).count 16
      | .uncorrectable => s.count 17)

/-! Incidents -/

/-- INCIDENT_TRIGGER and MARK have the recorder take a trigger: ignored where its kind is disabled, opened
in the slot of R136, lost where no slot or no number is left, or merged into the capture in progress; MARK
answers with the outcome, and a mark code above 255 is refused with REFUSED_RANGE (R131, R132, R135 to
R138, R140, R143, R156). -/
def Obligations.TriggersTaken : Prop :=
  (∀ (c : Cause) (detail : Byte) (s : State), s.phase = .running → s.mem.wf → s.params.preCount ≤ 32 →
    ∃ t code slot seq, exec (.incidentTrigger c detail) s = .next t ∧ t.mem.wf ∧
      TriggerTaken (s.setSent (s.sent.erase ⟨c, detail⟩)) t c detail code slot seq) ∧
  (∀ (r : Req) (s u : State), s.Takes 68 r u →
    (255 < r.words.w1.toNat → exec (.mark r) s = .next (u.answered 68 r .refusedRange {})) ∧
    (r.words.w1.toNat ≤ 255 → u.mem.wf → u.params.preCount ≤ 32 → ∃ t code slot seq,
      exec (.mark r) s = .next (t.answered 68 r .ok
        { w1 := BitVec.ofNat 16 code, w2 := BitVec.ofNat 16 slot, w3 := seq }) ∧
      TriggerTaken u t .manualMark (r.words.w1.setWidth 8) code slot seq))

/-- A sample expiry restarts the sample timer, pushes the snapshot of the present figures as the newest of
at most 64, appends it to a capture in progress and completes that capture when its planned count is
reached, and then takes a pending RESTART; both header words of an append are read before anything is written
(log 15); where the index would lie above 63 the model stops with a fault (log 25); an expiry that is not due
does not happen (log 3). Snapshots stand at the addresses of R134, their 32 halves in the order of Table 7-2;
a speed above 65535 does not fit its half, which is then open (log 33) (R128, R129, R130, R133, R134, R139,
R156). -/
def Obligations.SampleExpiry : Prop :=
  (∀ (i : Slot) (n w : Nat), slotAddr i w = 1031 * slotNo i + w ∧
    snapAddr i n w = 1031 * slotNo i + 7 + 16 * n + w ∧ retentionAddr w = 8248 + w) ∧
  (∀ x : Snapshot,
    let bytes := fun j k =>
      (16 * clsCode (x.speedCls.get j) + slideStateCode (x.slide.get j)) * 256 +
        (16 * clsCode (x.speedCls.get k) + slideStateCode (x.slide.get k))
    ∃ speed : Axle → Half, (∀ k, x.speeds.get k ≤ 65535 → speed k = half (x.speeds.get k)) ∧
    (x.words.map fun w => [hi16 w, lo16 w]).flatten =
      [hi16 x.stamp, lo16 x.stamp, half (modeCode x.mode), half (16 * linkStateCode (x.links.get .p) +
          4 * linkStateCode (x.links.get .a) + linkStateCode (x.links.get .m)),
        half x.dTot, half x.eCred, half (x.commands.get .a1), half (x.commands.get .a2),
        half (x.commands.get .a3), half (x.commands.get .a4), half (x.commands.get .a5),
        half (x.commands.get .a6), speed .a1, speed .a2, speed .a3, speed .a4, speed .a5,
        speed .a6, half (bytes .a1 .a2), half (bytes .a3 .a4), half (bytes .a5 .a6),
        half x.vref, half (x.pressures.get .t1), half (x.pressures.get .t2),
        half (x.achieved.get .t1).value, half (x.achieved.get .t2).value,
        half (actionCode (x.actions.get .t1) * 256 + actionCode (x.actions.get .t2)),
        half (clsCode (x.achieved.get .t1).cls * 256 + clsCode (x.achieved.get .t2).cls),
        half (bit (x.flags.get .clamped) + 2 * bit (x.flags.get .stale) + 4 * bit (x.flags.get .fault) +
          8 * bit (x.flags.get .tach) + 16 * bit (x.flags.get .shortfall) +
          32 * bit (x.flags.get .deviation)),
        half (x.penalty.code * 256 + x.emergency.code), half x.period, half x.revision]) ∧
  ∀ s : State, s.phase = .running →
    (¬s.runOver s.inc.sample → exec .sampleTimerExpiry s = .next s) ∧
    (s.runOver s.inc.sample → s.appendImpossible = true →
      exec .sampleTimerExpiry s = .fault .noSuchRecordWord) ∧
    (s.runOver s.inc.sample → s.appendImpossible = false → s.mem.wf → s.params.preCount ≤ 32 →
      ∃ x b m t, exec .sampleTimerExpiry s = .next t ∧ t.mem.wf ∧ Pictures s x ∧
        b = s.setInc { s.inc with
          sample := some ⟨s.now, s.params.samplePeriod⟩
          ring := (s.inc.ring ++ [x]).drop ((s.inc.ring ++ [x]).length - 64) } ∧
        Appended b m x ∧
        (s.inc.restartPending = none → t = m) ∧
        ∀ d, s.inc.restartPending = some d → ∃ v code slot seq,
          TriggerTaken m v .restart d code slot seq ∧
          t = v.setInc { v.inc with restartPending := none })

/-- SET_TRIGGERS replaces the trigger enable set. FREEZE_RELEASE leaves FREEZE at standstill without
emergency, with the retention word written, and is refused with REFUSED_STATE otherwise. READ_INC_STATUS
answers with the flags, states and numbers of the slots, arms exactly the UNREAD slots and clears the
incident-lost flag (R131, R144, R146). -/
def Obligations.RecorderRequests : Prop :=
  ∀ (r : Req) (s u : State),
    (s.Takes 67 r u → exec (.setTriggers r) s =
      .next ((u.setInc { u.inc with enabled := r.words.w1 }).answered 67 r .ok { w1 := r.words.w1 })) ∧
    (s.Takes 69 r u →
      let may := u.speed.standstill = true ∧ u.demand.emergency.any = false
      (¬may → exec (.freezeRelease r) s = .next (u.answered 69 r .refusedState {})) ∧
      (may → u.inc.freeze = false → exec (.freezeRelease r) s = .next (u.answered 69 r .ok {})) ∧
      (may → u.inc.freeze = true → exec (.freezeRelease r) s =
        .next (((u.setInc { u.inc with freeze := false }).setMem
          (u.mem.write (retentionAddr 2) (protect 0))).answered 69 r .ok {}))) ∧
    (s.Takes 80 r u →
      let code := fun i => slotStateCode (u.slotState i)
      let seq := fun i => if u.slotState i = .free then 0 else lo16 (u.slotSeq i)
      exec (.readIncStatus r) s =
        .next ((u.setInc { u.inc with
          lost := false, armed := .ofFn fun i => decide (u.slotState i = .unread) }).answered 80 r .ok
          ⟨half (bit (allSlots.any fun i => decide (u.slotState i = .unread)) + 2 * bit u.inc.lost
              + 4 * bit u.inc.freeze),
            half (code .s0 * 256 + code .s1), half (code .s2 * 256 + code .s3),
            half (code .s4 * 256 + code .s5), half (code .s6 * 256 + code .s7), seq .s0, seq .s1, seq .s2,
            seq .s3, seq .s4, seq .s5, seq .s6, seq .s7⟩))

/-- READ_INC_HEADER reads the seven header words through the check. A bad header makes the slot DAMAGED
and answers DAMAGED_DATA with the header as read; a FREE slot shows its state alone; an armed UNREAD slot
read from the M-link becomes READ unless FREEZE blocks it; else the header is only returned. READ_INC_SNAP
passes its checks in order and answers with the part's words, DAMAGED_DATA where one is uncorrectable
(R147, R148, R155, R156; that a slot without a number compares as 0 by log 29, the data word 12 of counts that
do not fit it by log 16, the stored count by log 13 and log 14). -/
def Obligations.IncidentReads : Prop :=
  ∀ (r : Req) (s u : State),
    (s.Takes 81 r u →
      (7 < r.selector.toNat → exec (.readIncHeader r) s = .next (u.answered 81 r .refusedRange {})) ∧
      ∀ i, r.selector.toNat = slotNo i → u.mem.wf →
        let (cs, v) := u.readWords ((List.range 7).map (slotAddr i))
        let bad := anyBad cs = true ∨ (hi16 (dataAt cs 6)).toNat ≠ slotStateCode (u.slotState i) ∨
          dataAt cs 0 ≠ u.slotSeq i
        let acks := r.link = .m ∧ u.inc.armed.get i = true ∧ u.slotState i = .unread ∧
          (u.inc.freeze = false ∨ u.params.ackInFreeze = 1)
        (bad → ∃ t w, exec (.readIncHeader r) s = .next (t.answered 81 r .damagedData w) ∧
          SlotDamaged v t i (cs.getD 6 ⟨.uncorrectable, 0⟩) ∧ HeaderShown w cs (hi16 (dataAt cs 6))) ∧
        (¬bad → u.slotState i = .free →
          exec (.readIncHeader r) s = .next (v.answered 81 r .ok {})) ∧
        (¬bad → u.slotState i ≠ .free → ¬acks → ∃ w,
          exec (.readIncHeader r) s = .next (v.answered 81 r .ok w) ∧
          HeaderShown w cs (half (slotStateCode (u.slotState i)))) ∧
        (¬bad → acks → ∃ t w, exec (.readIncHeader r) s = .next (t.answered 81 r .ok w) ∧
          HeaderShown w cs 3 ∧ RecorderOnly v t [] ∧
          t.inc = { v.inc with
            slots := v.inc.slots.set i { v.inc.slots.get i with state := .read }
            armed := v.inc.armed.set i false } ∧
          ∀ a, t.mem.read a =
            if a = slotAddr i 6 then protect (join16 3 (lo16 (dataAt cs 6))) else v.mem.read a)) ∧
    (s.Takes 82 r u →
      (7 < r.selector.toNat ∨ 2 < r.words.w2.toNat →
        exec (.readIncSnap r) s = .next (u.answered 82 r .refusedRange {})) ∧
      ∀ i, r.selector.toNat = slotNo i → r.words.w2.toNat ≤ 2 →
        let n := r.words.w1.toNat
        let five := (checkWord (u.mem.read (slotAddr i 5))).data
        let limit := if u.slotState i = .damaged then 64
          else min 64 ((hi16 five).toNat + (lo16 five).toNat)
        let first := 6 * r.words.w2.toNat
        let (cs, v) := u.readWords
          ((List.range (if r.words.w2 = 2 then 4 else 6)).map fun j => snapAddr i n (first + j))
        (u.slotState i = .free → exec (.readIncSnap r) s = .next (u.answered 82 r .refusedState {})) ∧
        (u.slotState i ≠ .free → limit ≤ n →
          exec (.readIncSnap r) s = .next (u.answered 82 r .refusedRange {})) ∧
        (u.slotState i ≠ .free → n < limit →
          exec (.readIncSnap r) s = .next (v.answered 82 r (if anyBad cs then .damagedData else .ok)
            (wordsOf (r.words.w1 :: (cs.map fun c => [hi16 c.data, lo16 c.data]).flatten)))))

/-! Invariants and whole-machine rules -/

/-- The invariants hold at reset. -/
def Obligations.InvariantsAtReset : Prop :=
  StoreSound .reset ∧ FiguresFollow .reset ∧ CommandsBounded .reset

/-- Every step keeps Record Memory canonical, the counts at or below 65535, at most 64 snapshots in the
ring, a CAPTURING slot exactly while a capture runs in it, only UNREAD slots armed, no capture and no armed
slot during the power-on scan, and the sequence numbers distinct and below the next one (R130, R135, R136,
R146, R151, R163). -/
def Obligations.StepKeepsStore : Prop :=
  ∀ s t : State, StoreSound s → step s = .next t → StoreSound t

/-- Every step keeps every parameter in its range, a DOWN link without response, counts and timer, D_blend,
D_tot and the mode as their inputs give them, every entry's conditions and state derived from what they
follow, and the output lines asserted as R36 and R122 say (R19, R20, R32, R36, R43, R46 to R49, R122, R173,
R177, R183). -/
def Obligations.StepKeepsFigures : Prop :=
  ∀ s t : State, FiguresFollow s → step s = .next t → FiguresFollow t

/-- Every step keeps each electric command within its target, availability, adhesion limit and ceiling, at
0 while its resource is OFF, and the six commands' sum within the record's D_tot; and each pressure command
at most its target and P_EMER, at most the air bound outside emergency, and 0 while its truck's action is
DUMP (R63, R72, R79). -/
def Obligations.StepKeepsCommandsBounded : Prop :=
  ∀ s t : State, CommandsBounded s → step s = .next t → CommandsBounded t

/-- What only certain commands can do: a count falls only at CLEAR_COUNTER and power-on and a selection
changes only at SET_COUNTER and power-on; LOCKOUT is left only at CLEAR_LOCKOUT and power-on; a link enters
and leaves a holder set only by its own requests, PENALTY_RESET and power-on; FREEZE is left only at
FREEZE_RELEASE, power-on and the scan; a flag is cleared only at CLEAR_EXC, a mask, the enable set, a
parameter and the diagnostic selection change only at their own requests, and at power-on; a changed word of
Record Memory is a codeword but after DIAG_WRITE in MAINT, a loss of VBAK, and a loss of VDD without VBAK
(R13, R17, R22 to R29, R118, R119, R131, R144, R152, R160, R162, R163, R183); and VBAK is lost only at
RETENTION_SUPPLY_LOSS and back only at power-on (log 27). -/
def Obligations.OnlyTheseCommands : Prop :=
  ∀ (c : Instr) (s t : State), exec c s = .next t →
    (∀ n, (t.counters.get n).count < (s.counters.get n).count →
      (∃ r, c = .clearCounter r) ∨ c = .powerOn) ∧
    (∀ n, (t.counters.get n).sel ≠ (s.counters.get n).sel → (∃ r, c = .setCounter r) ∨ c = .powerOn) ∧
    (∀ k, (s.slide.axles.get k).state = .lockout → (t.slide.axles.get k).state ≠ .lockout →
      (∃ r, c = .clearLockout r) ∨ c = .powerOn) ∧
    (∀ l, s.demand.penalty.has l = true → t.demand.penalty.has l = false →
      (∃ r, c = .penaltyClear r ∧ r.link = l) ∨ (∃ r, c = .penaltyReset r) ∨ c = .powerOn) ∧
    (∀ l, s.demand.penalty.has l = false → t.demand.penalty.has l = true →
      ∃ r, c = .penaltySet r ∧ r.link = l) ∧
    (∀ l, s.demand.emergency.has l = true → t.demand.emergency.has l = false →
      (∃ r, c = .emerClear r ∧ r.link = l) ∨ c = .powerOn) ∧
    (∀ l, s.demand.emergency.has l = false → t.demand.emergency.has l = true →
      ∃ r, c = .emerSet r ∧ r.link = l) ∧
    (s.inc.freeze = true → t.inc.freeze = false →
      (∃ r, c = .freezeRelease r) ∨ c = .powerOn ∨ ∃ w, c = .powerOnScanComplete w) ∧
    (∀ k, (s.exc.get k).source ≠ none → (t.exc.get k).source = none →
      (∃ r, c = .clearExc r) ∨ c = .powerOn) ∧
    (∀ k, (t.exc.get k).masked ≠ (s.exc.get k).masked → (∃ r, c = .setMask r) ∨ c = .powerOn) ∧
    (t.inc.enabled ≠ s.inc.enabled → (∃ r, c = .setTriggers r) ∨ c = .powerOn) ∧
    (t.params ≠ s.params → (∃ r, c = .writeParam r) ∨ c = .powerOn) ∧
    (t.diag ≠ s.diag → (∃ r, c = .diagSelect r) ∨ c = .powerOn) ∧
    (s.mem.wf → ∀ a, t.mem.read a ≠ s.mem.read a →
      (∃ d, t.mem.read a = protect d) ∨ ((∃ r, c = .diagWrite r) ∧ s.demand.mode = .maint) ∨
        c = .retentionSupplyLoss ∨ (c = .powerLoss ∧ s.vbak = false)) ∧
    (s.vbak = true → t.vbak = false → c = .retentionSupplyLoss) ∧
    (s.vbak = false → t.vbak = true → c = .powerOn)
end

