-- ==== Sys2Proof/Laws/State.lean ====
section
/-! SUPPORT. The small lemmas of State: one lemma per field per update, and the get and set lemmas of the
numbered containers, so that no proof unfolds a record update. -/

namespace Sys2Proof.Machine

@[simp] theorem PerLink.get_set_self (v : PerLink α) (i : LinkId) (x : α) : (v.set i x).get i = x := by
  cases i <;> rfl

@[simp] theorem PerLink.get_set_ne (v : PerLink α) (i j : LinkId) (x : α) (h : j ≠ i) : (v.set i x).get j = v.get j := by
  cases i <;> cases j <;> first | rfl | exact absurd rfl h

theorem PerLink.get_set (v : PerLink α) (i j : LinkId) (x : α) :
    (v.set i x).get j = if j = i then x else v.get j := by
  by_cases h : j = i
  · subst h; simp
  · simp [h]

@[simp] theorem PerLink.set_get (v : PerLink α) (i : LinkId) : v.set i (v.get i) = v := by
  cases i <;> rfl

@[simp] theorem PerLink.set_set (v : PerLink α) (i : LinkId) (x y : α) : (v.set i x).set i y = v.set i y := by
  cases i <;> rfl

@[simp] theorem PerLink.get_ofFn (f : LinkId → α) (i : LinkId) : (PerLink.ofFn f).get i = f i := by
  cases i <;> rfl

theorem PerLink.ext_get (v w : PerLink α) (h : ∀ i, v.get i = w.get i) : v = w := by
  cases v; cases w
  simp only [PerLink.mk.injEq]
  exact ⟨h .p, h .a, h .m⟩

@[simp] theorem PerTruck.get_set_self (v : PerTruck α) (i : Truck) (x : α) : (v.set i x).get i = x := by
  cases i <;> rfl

@[simp] theorem PerTruck.get_set_ne (v : PerTruck α) (i j : Truck) (x : α) (h : j ≠ i) : (v.set i x).get j = v.get j := by
  cases i <;> cases j <;> first | rfl | exact absurd rfl h

theorem PerTruck.get_set (v : PerTruck α) (i j : Truck) (x : α) :
    (v.set i x).get j = if j = i then x else v.get j := by
  by_cases h : j = i
  · subst h; simp
  · simp [h]

@[simp] theorem PerTruck.set_get (v : PerTruck α) (i : Truck) : v.set i (v.get i) = v := by
  cases i <;> rfl

@[simp] theorem PerTruck.set_set (v : PerTruck α) (i : Truck) (x y : α) : (v.set i x).set i y = v.set i y := by
  cases i <;> rfl

@[simp] theorem PerTruck.get_ofFn (f : Truck → α) (i : Truck) : (PerTruck.ofFn f).get i = f i := by
  cases i <;> rfl

theorem PerTruck.ext_get (v w : PerTruck α) (h : ∀ i, v.get i = w.get i) : v = w := by
  cases v; cases w
  simp only [PerTruck.mk.injEq]
  exact ⟨h .t1, h .t2⟩

@[simp] theorem PerAxle.get_set_self (v : PerAxle α) (i : Axle) (x : α) : (v.set i x).get i = x := by
  cases i <;> rfl

@[simp] theorem PerAxle.get_set_ne (v : PerAxle α) (i j : Axle) (x : α) (h : j ≠ i) : (v.set i x).get j = v.get j := by
  cases i <;> cases j <;> first | rfl | exact absurd rfl h

theorem PerAxle.get_set (v : PerAxle α) (i j : Axle) (x : α) :
    (v.set i x).get j = if j = i then x else v.get j := by
  by_cases h : j = i
  · subst h; simp
  · simp [h]

@[simp] theorem PerAxle.set_get (v : PerAxle α) (i : Axle) : v.set i (v.get i) = v := by
  cases i <;> rfl

@[simp] theorem PerAxle.set_set (v : PerAxle α) (i : Axle) (x y : α) : (v.set i x).set i y = v.set i y := by
  cases i <;> rfl

@[simp] theorem PerAxle.get_ofFn (f : Axle → α) (i : Axle) : (PerAxle.ofFn f).get i = f i := by
  cases i <;> rfl

theorem PerAxle.ext_get (v w : PerAxle α) (h : ∀ i, v.get i = w.get i) : v = w := by
  cases v; cases w
  simp only [PerAxle.mk.injEq]
  exact ⟨h .a1, h .a2, h .a3, h .a4, h .a5, h .a6⟩

@[simp] theorem PerSlot.get_set_self (v : PerSlot α) (i : Slot) (x : α) : (v.set i x).get i = x := by
  cases i <;> rfl

@[simp] theorem PerSlot.get_set_ne (v : PerSlot α) (i j : Slot) (x : α) (h : j ≠ i) : (v.set i x).get j = v.get j := by
  cases i <;> cases j <;> first | rfl | exact absurd rfl h

theorem PerSlot.get_set (v : PerSlot α) (i j : Slot) (x : α) :
    (v.set i x).get j = if j = i then x else v.get j := by
  by_cases h : j = i
  · subst h; simp
  · simp [h]

@[simp] theorem PerSlot.set_get (v : PerSlot α) (i : Slot) : v.set i (v.get i) = v := by
  cases i <;> rfl

@[simp] theorem PerSlot.set_set (v : PerSlot α) (i : Slot) (x y : α) : (v.set i x).set i y = v.set i y := by
  cases i <;> rfl

@[simp] theorem PerSlot.get_ofFn (f : Slot → α) (i : Slot) : (PerSlot.ofFn f).get i = f i := by
  cases i <;> rfl

theorem PerSlot.ext_get (v w : PerSlot α) (h : ∀ i, v.get i = w.get i) : v = w := by
  cases v; cases w
  simp only [PerSlot.mk.injEq]
  exact ⟨h .s0, h .s1, h .s2, h .s3, h .s4, h .s5, h .s6, h .s7⟩

@[simp] theorem PerCounter.get_set_self (v : PerCounter α) (i : CounterNo) (x : α) : (v.set i x).get i = x := by
  cases i <;> rfl

@[simp] theorem PerCounter.get_set_ne (v : PerCounter α) (i j : CounterNo) (x : α) (h : j ≠ i) : (v.set i x).get j = v.get j := by
  cases i <;> cases j <;> first | rfl | exact absurd rfl h

theorem PerCounter.get_set (v : PerCounter α) (i j : CounterNo) (x : α) :
    (v.set i x).get j = if j = i then x else v.get j := by
  by_cases h : j = i
  · subst h; simp
  · simp [h]

@[simp] theorem PerCounter.set_get (v : PerCounter α) (i : CounterNo) : v.set i (v.get i) = v := by
  cases i <;> rfl

@[simp] theorem PerCounter.set_set (v : PerCounter α) (i : CounterNo) (x y : α) : (v.set i x).set i y = v.set i y := by
  cases i <;> rfl

@[simp] theorem PerCounter.get_ofFn (f : CounterNo → α) (i : CounterNo) : (PerCounter.ofFn f).get i = f i := by
  cases i <;> rfl

theorem PerCounter.ext_get (v w : PerCounter α) (h : ∀ i, v.get i = w.get i) : v = w := by
  cases v; cases w
  simp only [PerCounter.mk.injEq]
  exact ⟨h .c0, h .c1, h .c2, h .c3⟩

@[simp] theorem PerKind.get_set_self (v : PerKind α) (i : ExcKind) (x : α) : (v.set i x).get i = x := by
  cases i <;> rfl

@[simp] theorem PerKind.get_set_ne (v : PerKind α) (i j : ExcKind) (x : α) (h : j ≠ i) : (v.set i x).get j = v.get j := by
  cases i <;> cases j <;> first | rfl | exact absurd rfl h

theorem PerKind.get_set (v : PerKind α) (i j : ExcKind) (x : α) :
    (v.set i x).get j = if j = i then x else v.get j := by
  by_cases h : j = i
  · subst h; simp
  · simp [h]

@[simp] theorem PerKind.set_get (v : PerKind α) (i : ExcKind) : v.set i (v.get i) = v := by
  cases i <;> rfl

@[simp] theorem PerKind.set_set (v : PerKind α) (i : ExcKind) (x y : α) : (v.set i x).set i y = v.set i y := by
  cases i <;> rfl

@[simp] theorem PerKind.get_ofFn (f : ExcKind → α) (i : ExcKind) : (PerKind.ofFn f).get i = f i := by
  cases i <;> rfl

theorem PerKind.ext_get (v w : PerKind α) (h : ∀ i, v.get i = w.get i) : v = w := by
  cases v; cases w
  simp only [PerKind.mk.injEq]
  exact ⟨h .clamped, h .stale, h .fault, h .tach, h .shortfall, h .deviation⟩

@[simp] theorem State.setPending_pending (s : State) (x : List Instr) : (s.setPending x).pending = x := rfl
@[simp] theorem State.setPending_clock (s : State) (x : List Instr) : (s.setPending x).clock = s.clock := rfl
@[simp] theorem State.setPending_phase (s : State) (x : List Instr) : (s.setPending x).phase = s.phase := rfl
@[simp] theorem State.setPending_links (s : State) (x : List Instr) : (s.setPending x).links = s.links := rfl
@[simp] theorem State.setPending_posted (s : State) (x : List Instr) : (s.setPending x).posted = s.posted := rfl
@[simp] theorem State.setPending_exc (s : State) (x : List Instr) : (s.setPending x).exc = s.exc := rfl
@[simp] theorem State.setPending_demand (s : State) (x : List Instr) : (s.setPending x).demand = s.demand := rfl
@[simp] theorem State.setPending_res (s : State) (x : List Instr) : (s.setPending x).res = s.res := rfl
@[simp] theorem State.setPending_blend (s : State) (x : List Instr) : (s.setPending x).blend = s.blend := rfl
@[simp] theorem State.setPending_tach (s : State) (x : List Instr) : (s.setPending x).tach = s.tach := rfl
@[simp] theorem State.setPending_speed (s : State) (x : List Instr) : (s.setPending x).speed = s.speed := rfl
@[simp] theorem State.setPending_slide (s : State) (x : List Instr) : (s.setPending x).slide = s.slide := rfl
@[simp] theorem State.setPending_inc (s : State) (x : List Instr) : (s.setPending x).inc = s.inc := rfl
@[simp] theorem State.setPending_mem (s : State) (x : List Instr) : (s.setPending x).mem = s.mem := rfl
@[simp] theorem State.setPending_vbak (s : State) (x : List Instr) : (s.setPending x).vbak = s.vbak := rfl
@[simp] theorem State.setPending_memLost (s : State) (x : List Instr) : (s.setPending x).memLost = s.memLost := rfl
@[simp] theorem State.setPending_diag (s : State) (x : List Instr) : (s.setPending x).diag = s.diag := rfl
@[simp] theorem State.setPending_counters (s : State) (x : List Instr) : (s.setPending x).counters = s.counters := rfl
@[simp] theorem State.setPending_params (s : State) (x : List Instr) : (s.setPending x).params = s.params := rfl
@[simp] theorem State.setPending_brkFault (s : State) (x : List Instr) : (s.setPending x).brkFault = s.brkFault := rfl
@[simp] theorem State.setPending_dump (s : State) (x : List Instr) : (s.setPending x).dump = s.dump := rfl
@[simp] theorem State.setPending_sent (s : State) (x : List Instr) : (s.setPending x).sent = s.sent := rfl
@[simp] theorem State.setPending_choice (s : State) (x : List Instr) : (s.setPending x).choice = s.choice := rfl
@[simp] theorem State.setPending_self (s : State) : s.setPending s.pending = s := rfl
@[simp] theorem State.setPending_twice (s : State) (x y : List Instr) : (s.setPending x).setPending y = s.setPending y := rfl

@[simp] theorem State.setClock_pending (s : State) (x : Clock) : (s.setClock x).pending = s.pending := rfl
@[simp] theorem State.setClock_clock (s : State) (x : Clock) : (s.setClock x).clock = x := rfl
@[simp] theorem State.setClock_phase (s : State) (x : Clock) : (s.setClock x).phase = s.phase := rfl
@[simp] theorem State.setClock_links (s : State) (x : Clock) : (s.setClock x).links = s.links := rfl
@[simp] theorem State.setClock_posted (s : State) (x : Clock) : (s.setClock x).posted = s.posted := rfl
@[simp] theorem State.setClock_exc (s : State) (x : Clock) : (s.setClock x).exc = s.exc := rfl
@[simp] theorem State.setClock_demand (s : State) (x : Clock) : (s.setClock x).demand = s.demand := rfl
@[simp] theorem State.setClock_res (s : State) (x : Clock) : (s.setClock x).res = s.res := rfl
@[simp] theorem State.setClock_blend (s : State) (x : Clock) : (s.setClock x).blend = s.blend := rfl
@[simp] theorem State.setClock_tach (s : State) (x : Clock) : (s.setClock x).tach = s.tach := rfl
@[simp] theorem State.setClock_speed (s : State) (x : Clock) : (s.setClock x).speed = s.speed := rfl
@[simp] theorem State.setClock_slide (s : State) (x : Clock) : (s.setClock x).slide = s.slide := rfl
@[simp] theorem State.setClock_inc (s : State) (x : Clock) : (s.setClock x).inc = s.inc := rfl
@[simp] theorem State.setClock_mem (s : State) (x : Clock) : (s.setClock x).mem = s.mem := rfl
@[simp] theorem State.setClock_vbak (s : State) (x : Clock) : (s.setClock x).vbak = s.vbak := rfl
@[simp] theorem State.setClock_memLost (s : State) (x : Clock) : (s.setClock x).memLost = s.memLost := rfl
@[simp] theorem State.setClock_diag (s : State) (x : Clock) : (s.setClock x).diag = s.diag := rfl
@[simp] theorem State.setClock_counters (s : State) (x : Clock) : (s.setClock x).counters = s.counters := rfl
@[simp] theorem State.setClock_params (s : State) (x : Clock) : (s.setClock x).params = s.params := rfl
@[simp] theorem State.setClock_brkFault (s : State) (x : Clock) : (s.setClock x).brkFault = s.brkFault := rfl
@[simp] theorem State.setClock_dump (s : State) (x : Clock) : (s.setClock x).dump = s.dump := rfl
@[simp] theorem State.setClock_sent (s : State) (x : Clock) : (s.setClock x).sent = s.sent := rfl
@[simp] theorem State.setClock_choice (s : State) (x : Clock) : (s.setClock x).choice = s.choice := rfl
@[simp] theorem State.setClock_self (s : State) : s.setClock s.clock = s := rfl
@[simp] theorem State.setClock_twice (s : State) (x y : Clock) : (s.setClock x).setClock y = s.setClock y := rfl

@[simp] theorem State.setPhase_pending (s : State) (x : Phase) : (s.setPhase x).pending = s.pending := rfl
@[simp] theorem State.setPhase_clock (s : State) (x : Phase) : (s.setPhase x).clock = s.clock := rfl
@[simp] theorem State.setPhase_phase (s : State) (x : Phase) : (s.setPhase x).phase = x := rfl
@[simp] theorem State.setPhase_links (s : State) (x : Phase) : (s.setPhase x).links = s.links := rfl
@[simp] theorem State.setPhase_posted (s : State) (x : Phase) : (s.setPhase x).posted = s.posted := rfl
@[simp] theorem State.setPhase_exc (s : State) (x : Phase) : (s.setPhase x).exc = s.exc := rfl
@[simp] theorem State.setPhase_demand (s : State) (x : Phase) : (s.setPhase x).demand = s.demand := rfl
@[simp] theorem State.setPhase_res (s : State) (x : Phase) : (s.setPhase x).res = s.res := rfl
@[simp] theorem State.setPhase_blend (s : State) (x : Phase) : (s.setPhase x).blend = s.blend := rfl
@[simp] theorem State.setPhase_tach (s : State) (x : Phase) : (s.setPhase x).tach = s.tach := rfl
@[simp] theorem State.setPhase_speed (s : State) (x : Phase) : (s.setPhase x).speed = s.speed := rfl
@[simp] theorem State.setPhase_slide (s : State) (x : Phase) : (s.setPhase x).slide = s.slide := rfl
@[simp] theorem State.setPhase_inc (s : State) (x : Phase) : (s.setPhase x).inc = s.inc := rfl
@[simp] theorem State.setPhase_mem (s : State) (x : Phase) : (s.setPhase x).mem = s.mem := rfl
@[simp] theorem State.setPhase_vbak (s : State) (x : Phase) : (s.setPhase x).vbak = s.vbak := rfl
@[simp] theorem State.setPhase_memLost (s : State) (x : Phase) : (s.setPhase x).memLost = s.memLost := rfl
@[simp] theorem State.setPhase_diag (s : State) (x : Phase) : (s.setPhase x).diag = s.diag := rfl
@[simp] theorem State.setPhase_counters (s : State) (x : Phase) : (s.setPhase x).counters = s.counters := rfl
@[simp] theorem State.setPhase_params (s : State) (x : Phase) : (s.setPhase x).params = s.params := rfl
@[simp] theorem State.setPhase_brkFault (s : State) (x : Phase) : (s.setPhase x).brkFault = s.brkFault := rfl
@[simp] theorem State.setPhase_dump (s : State) (x : Phase) : (s.setPhase x).dump = s.dump := rfl
@[simp] theorem State.setPhase_sent (s : State) (x : Phase) : (s.setPhase x).sent = s.sent := rfl
@[simp] theorem State.setPhase_choice (s : State) (x : Phase) : (s.setPhase x).choice = s.choice := rfl
@[simp] theorem State.setPhase_self (s : State) : s.setPhase s.phase = s := rfl
@[simp] theorem State.setPhase_twice (s : State) (x y : Phase) : (s.setPhase x).setPhase y = s.setPhase y := rfl

@[simp] theorem State.setLinks_pending (s : State) (x : PerLink LinkPort) : (s.setLinks x).pending = s.pending := rfl
@[simp] theorem State.setLinks_clock (s : State) (x : PerLink LinkPort) : (s.setLinks x).clock = s.clock := rfl
@[simp] theorem State.setLinks_phase (s : State) (x : PerLink LinkPort) : (s.setLinks x).phase = s.phase := rfl
@[simp] theorem State.setLinks_links (s : State) (x : PerLink LinkPort) : (s.setLinks x).links = x := rfl
@[simp] theorem State.setLinks_posted (s : State) (x : PerLink LinkPort) : (s.setLinks x).posted = s.posted := rfl
@[simp] theorem State.setLinks_exc (s : State) (x : PerLink LinkPort) : (s.setLinks x).exc = s.exc := rfl
@[simp] theorem State.setLinks_demand (s : State) (x : PerLink LinkPort) : (s.setLinks x).demand = s.demand := rfl
@[simp] theorem State.setLinks_res (s : State) (x : PerLink LinkPort) : (s.setLinks x).res = s.res := rfl
@[simp] theorem State.setLinks_blend (s : State) (x : PerLink LinkPort) : (s.setLinks x).blend = s.blend := rfl
@[simp] theorem State.setLinks_tach (s : State) (x : PerLink LinkPort) : (s.setLinks x).tach = s.tach := rfl
@[simp] theorem State.setLinks_speed (s : State) (x : PerLink LinkPort) : (s.setLinks x).speed = s.speed := rfl
@[simp] theorem State.setLinks_slide (s : State) (x : PerLink LinkPort) : (s.setLinks x).slide = s.slide := rfl
@[simp] theorem State.setLinks_inc (s : State) (x : PerLink LinkPort) : (s.setLinks x).inc = s.inc := rfl
@[simp] theorem State.setLinks_mem (s : State) (x : PerLink LinkPort) : (s.setLinks x).mem = s.mem := rfl
@[simp] theorem State.setLinks_vbak (s : State) (x : PerLink LinkPort) : (s.setLinks x).vbak = s.vbak := rfl
@[simp] theorem State.setLinks_memLost (s : State) (x : PerLink LinkPort) : (s.setLinks x).memLost = s.memLost := rfl
@[simp] theorem State.setLinks_diag (s : State) (x : PerLink LinkPort) : (s.setLinks x).diag = s.diag := rfl
@[simp] theorem State.setLinks_counters (s : State) (x : PerLink LinkPort) : (s.setLinks x).counters = s.counters := rfl
@[simp] theorem State.setLinks_params (s : State) (x : PerLink LinkPort) : (s.setLinks x).params = s.params := rfl
@[simp] theorem State.setLinks_brkFault (s : State) (x : PerLink LinkPort) : (s.setLinks x).brkFault = s.brkFault := rfl
@[simp] theorem State.setLinks_dump (s : State) (x : PerLink LinkPort) : (s.setLinks x).dump = s.dump := rfl
@[simp] theorem State.setLinks_sent (s : State) (x : PerLink LinkPort) : (s.setLinks x).sent = s.sent := rfl
@[simp] theorem State.setLinks_choice (s : State) (x : PerLink LinkPort) : (s.setLinks x).choice = s.choice := rfl
@[simp] theorem State.setLinks_self (s : State) : s.setLinks s.links = s := rfl
@[simp] theorem State.setLinks_twice (s : State) (x y : PerLink LinkPort) : (s.setLinks x).setLinks y = s.setLinks y := rfl

@[simp] theorem State.setPosted_pending (s : State) (x : Posted) : (s.setPosted x).pending = s.pending := rfl
@[simp] theorem State.setPosted_clock (s : State) (x : Posted) : (s.setPosted x).clock = s.clock := rfl
@[simp] theorem State.setPosted_phase (s : State) (x : Posted) : (s.setPosted x).phase = s.phase := rfl
@[simp] theorem State.setPosted_links (s : State) (x : Posted) : (s.setPosted x).links = s.links := rfl
@[simp] theorem State.setPosted_posted (s : State) (x : Posted) : (s.setPosted x).posted = x := rfl
@[simp] theorem State.setPosted_exc (s : State) (x : Posted) : (s.setPosted x).exc = s.exc := rfl
@[simp] theorem State.setPosted_demand (s : State) (x : Posted) : (s.setPosted x).demand = s.demand := rfl
@[simp] theorem State.setPosted_res (s : State) (x : Posted) : (s.setPosted x).res = s.res := rfl
@[simp] theorem State.setPosted_blend (s : State) (x : Posted) : (s.setPosted x).blend = s.blend := rfl
@[simp] theorem State.setPosted_tach (s : State) (x : Posted) : (s.setPosted x).tach = s.tach := rfl
@[simp] theorem State.setPosted_speed (s : State) (x : Posted) : (s.setPosted x).speed = s.speed := rfl
@[simp] theorem State.setPosted_slide (s : State) (x : Posted) : (s.setPosted x).slide = s.slide := rfl
@[simp] theorem State.setPosted_inc (s : State) (x : Posted) : (s.setPosted x).inc = s.inc := rfl
@[simp] theorem State.setPosted_mem (s : State) (x : Posted) : (s.setPosted x).mem = s.mem := rfl
@[simp] theorem State.setPosted_vbak (s : State) (x : Posted) : (s.setPosted x).vbak = s.vbak := rfl
@[simp] theorem State.setPosted_memLost (s : State) (x : Posted) : (s.setPosted x).memLost = s.memLost := rfl
@[simp] theorem State.setPosted_diag (s : State) (x : Posted) : (s.setPosted x).diag = s.diag := rfl
@[simp] theorem State.setPosted_counters (s : State) (x : Posted) : (s.setPosted x).counters = s.counters := rfl
@[simp] theorem State.setPosted_params (s : State) (x : Posted) : (s.setPosted x).params = s.params := rfl
@[simp] theorem State.setPosted_brkFault (s : State) (x : Posted) : (s.setPosted x).brkFault = s.brkFault := rfl
@[simp] theorem State.setPosted_dump (s : State) (x : Posted) : (s.setPosted x).dump = s.dump := rfl
@[simp] theorem State.setPosted_sent (s : State) (x : Posted) : (s.setPosted x).sent = s.sent := rfl
@[simp] theorem State.setPosted_choice (s : State) (x : Posted) : (s.setPosted x).choice = s.choice := rfl
@[simp] theorem State.setPosted_self (s : State) : s.setPosted s.posted = s := rfl
@[simp] theorem State.setPosted_twice (s : State) (x y : Posted) : (s.setPosted x).setPosted y = s.setPosted y := rfl

@[simp] theorem State.setExc_pending (s : State) (x : PerKind ExcEntry) : (s.setExc x).pending = s.pending := rfl
@[simp] theorem State.setExc_clock (s : State) (x : PerKind ExcEntry) : (s.setExc x).clock = s.clock := rfl
@[simp] theorem State.setExc_phase (s : State) (x : PerKind ExcEntry) : (s.setExc x).phase = s.phase := rfl
@[simp] theorem State.setExc_links (s : State) (x : PerKind ExcEntry) : (s.setExc x).links = s.links := rfl
@[simp] theorem State.setExc_posted (s : State) (x : PerKind ExcEntry) : (s.setExc x).posted = s.posted := rfl
@[simp] theorem State.setExc_exc (s : State) (x : PerKind ExcEntry) : (s.setExc x).exc = x := rfl
@[simp] theorem State.setExc_demand (s : State) (x : PerKind ExcEntry) : (s.setExc x).demand = s.demand := rfl
@[simp] theorem State.setExc_res (s : State) (x : PerKind ExcEntry) : (s.setExc x).res = s.res := rfl
@[simp] theorem State.setExc_blend (s : State) (x : PerKind ExcEntry) : (s.setExc x).blend = s.blend := rfl
@[simp] theorem State.setExc_tach (s : State) (x : PerKind ExcEntry) : (s.setExc x).tach = s.tach := rfl
@[simp] theorem State.setExc_speed (s : State) (x : PerKind ExcEntry) : (s.setExc x).speed = s.speed := rfl
@[simp] theorem State.setExc_slide (s : State) (x : PerKind ExcEntry) : (s.setExc x).slide = s.slide := rfl
@[simp] theorem State.setExc_inc (s : State) (x : PerKind ExcEntry) : (s.setExc x).inc = s.inc := rfl
@[simp] theorem State.setExc_mem (s : State) (x : PerKind ExcEntry) : (s.setExc x).mem = s.mem := rfl
@[simp] theorem State.setExc_vbak (s : State) (x : PerKind ExcEntry) : (s.setExc x).vbak = s.vbak := rfl
@[simp] theorem State.setExc_memLost (s : State) (x : PerKind ExcEntry) : (s.setExc x).memLost = s.memLost := rfl
@[simp] theorem State.setExc_diag (s : State) (x : PerKind ExcEntry) : (s.setExc x).diag = s.diag := rfl
@[simp] theorem State.setExc_counters (s : State) (x : PerKind ExcEntry) : (s.setExc x).counters = s.counters := rfl
@[simp] theorem State.setExc_params (s : State) (x : PerKind ExcEntry) : (s.setExc x).params = s.params := rfl
@[simp] theorem State.setExc_brkFault (s : State) (x : PerKind ExcEntry) : (s.setExc x).brkFault = s.brkFault := rfl
@[simp] theorem State.setExc_dump (s : State) (x : PerKind ExcEntry) : (s.setExc x).dump = s.dump := rfl
@[simp] theorem State.setExc_sent (s : State) (x : PerKind ExcEntry) : (s.setExc x).sent = s.sent := rfl
@[simp] theorem State.setExc_choice (s : State) (x : PerKind ExcEntry) : (s.setExc x).choice = s.choice := rfl
@[simp] theorem State.setExc_self (s : State) : s.setExc s.exc = s := rfl
@[simp] theorem State.setExc_twice (s : State) (x y : PerKind ExcEntry) : (s.setExc x).setExc y = s.setExc y := rfl

@[simp] theorem State.setDemand_pending (s : State) (x : Demand) : (s.setDemand x).pending = s.pending := rfl
@[simp] theorem State.setDemand_clock (s : State) (x : Demand) : (s.setDemand x).clock = s.clock := rfl
@[simp] theorem State.setDemand_phase (s : State) (x : Demand) : (s.setDemand x).phase = s.phase := rfl
@[simp] theorem State.setDemand_links (s : State) (x : Demand) : (s.setDemand x).links = s.links := rfl
@[simp] theorem State.setDemand_posted (s : State) (x : Demand) : (s.setDemand x).posted = s.posted := rfl
@[simp] theorem State.setDemand_exc (s : State) (x : Demand) : (s.setDemand x).exc = s.exc := rfl
@[simp] theorem State.setDemand_demand (s : State) (x : Demand) : (s.setDemand x).demand = x := rfl
@[simp] theorem State.setDemand_res (s : State) (x : Demand) : (s.setDemand x).res = s.res := rfl
@[simp] theorem State.setDemand_blend (s : State) (x : Demand) : (s.setDemand x).blend = s.blend := rfl
@[simp] theorem State.setDemand_tach (s : State) (x : Demand) : (s.setDemand x).tach = s.tach := rfl
@[simp] theorem State.setDemand_speed (s : State) (x : Demand) : (s.setDemand x).speed = s.speed := rfl
@[simp] theorem State.setDemand_slide (s : State) (x : Demand) : (s.setDemand x).slide = s.slide := rfl
@[simp] theorem State.setDemand_inc (s : State) (x : Demand) : (s.setDemand x).inc = s.inc := rfl
@[simp] theorem State.setDemand_mem (s : State) (x : Demand) : (s.setDemand x).mem = s.mem := rfl
@[simp] theorem State.setDemand_vbak (s : State) (x : Demand) : (s.setDemand x).vbak = s.vbak := rfl
@[simp] theorem State.setDemand_memLost (s : State) (x : Demand) : (s.setDemand x).memLost = s.memLost := rfl
@[simp] theorem State.setDemand_diag (s : State) (x : Demand) : (s.setDemand x).diag = s.diag := rfl
@[simp] theorem State.setDemand_counters (s : State) (x : Demand) : (s.setDemand x).counters = s.counters := rfl
@[simp] theorem State.setDemand_params (s : State) (x : Demand) : (s.setDemand x).params = s.params := rfl
@[simp] theorem State.setDemand_brkFault (s : State) (x : Demand) : (s.setDemand x).brkFault = s.brkFault := rfl
@[simp] theorem State.setDemand_dump (s : State) (x : Demand) : (s.setDemand x).dump = s.dump := rfl
@[simp] theorem State.setDemand_sent (s : State) (x : Demand) : (s.setDemand x).sent = s.sent := rfl
@[simp] theorem State.setDemand_choice (s : State) (x : Demand) : (s.setDemand x).choice = s.choice := rfl
@[simp] theorem State.setDemand_self (s : State) : s.setDemand s.demand = s := rfl
@[simp] theorem State.setDemand_twice (s : State) (x y : Demand) : (s.setDemand x).setDemand y = s.setDemand y := rfl

@[simp] theorem State.setRes_pending (s : State) (x : Resources) : (s.setRes x).pending = s.pending := rfl
@[simp] theorem State.setRes_clock (s : State) (x : Resources) : (s.setRes x).clock = s.clock := rfl
@[simp] theorem State.setRes_phase (s : State) (x : Resources) : (s.setRes x).phase = s.phase := rfl
@[simp] theorem State.setRes_links (s : State) (x : Resources) : (s.setRes x).links = s.links := rfl
@[simp] theorem State.setRes_posted (s : State) (x : Resources) : (s.setRes x).posted = s.posted := rfl
@[simp] theorem State.setRes_exc (s : State) (x : Resources) : (s.setRes x).exc = s.exc := rfl
@[simp] theorem State.setRes_demand (s : State) (x : Resources) : (s.setRes x).demand = s.demand := rfl
@[simp] theorem State.setRes_res (s : State) (x : Resources) : (s.setRes x).res = x := rfl
@[simp] theorem State.setRes_blend (s : State) (x : Resources) : (s.setRes x).blend = s.blend := rfl
@[simp] theorem State.setRes_tach (s : State) (x : Resources) : (s.setRes x).tach = s.tach := rfl
@[simp] theorem State.setRes_speed (s : State) (x : Resources) : (s.setRes x).speed = s.speed := rfl
@[simp] theorem State.setRes_slide (s : State) (x : Resources) : (s.setRes x).slide = s.slide := rfl
@[simp] theorem State.setRes_inc (s : State) (x : Resources) : (s.setRes x).inc = s.inc := rfl
@[simp] theorem State.setRes_mem (s : State) (x : Resources) : (s.setRes x).mem = s.mem := rfl
@[simp] theorem State.setRes_vbak (s : State) (x : Resources) : (s.setRes x).vbak = s.vbak := rfl
@[simp] theorem State.setRes_memLost (s : State) (x : Resources) : (s.setRes x).memLost = s.memLost := rfl
@[simp] theorem State.setRes_diag (s : State) (x : Resources) : (s.setRes x).diag = s.diag := rfl
@[simp] theorem State.setRes_counters (s : State) (x : Resources) : (s.setRes x).counters = s.counters := rfl
@[simp] theorem State.setRes_params (s : State) (x : Resources) : (s.setRes x).params = s.params := rfl
@[simp] theorem State.setRes_brkFault (s : State) (x : Resources) : (s.setRes x).brkFault = s.brkFault := rfl
@[simp] theorem State.setRes_dump (s : State) (x : Resources) : (s.setRes x).dump = s.dump := rfl
@[simp] theorem State.setRes_sent (s : State) (x : Resources) : (s.setRes x).sent = s.sent := rfl
@[simp] theorem State.setRes_choice (s : State) (x : Resources) : (s.setRes x).choice = s.choice := rfl
@[simp] theorem State.setRes_self (s : State) : s.setRes s.res = s := rfl
@[simp] theorem State.setRes_twice (s : State) (x y : Resources) : (s.setRes x).setRes y = s.setRes y := rfl

@[simp] theorem State.setBlend_pending (s : State) (x : Blend) : (s.setBlend x).pending = s.pending := rfl
@[simp] theorem State.setBlend_clock (s : State) (x : Blend) : (s.setBlend x).clock = s.clock := rfl
@[simp] theorem State.setBlend_phase (s : State) (x : Blend) : (s.setBlend x).phase = s.phase := rfl
@[simp] theorem State.setBlend_links (s : State) (x : Blend) : (s.setBlend x).links = s.links := rfl
@[simp] theorem State.setBlend_posted (s : State) (x : Blend) : (s.setBlend x).posted = s.posted := rfl
@[simp] theorem State.setBlend_exc (s : State) (x : Blend) : (s.setBlend x).exc = s.exc := rfl
@[simp] theorem State.setBlend_demand (s : State) (x : Blend) : (s.setBlend x).demand = s.demand := rfl
@[simp] theorem State.setBlend_res (s : State) (x : Blend) : (s.setBlend x).res = s.res := rfl
@[simp] theorem State.setBlend_blend (s : State) (x : Blend) : (s.setBlend x).blend = x := rfl
@[simp] theorem State.setBlend_tach (s : State) (x : Blend) : (s.setBlend x).tach = s.tach := rfl
@[simp] theorem State.setBlend_speed (s : State) (x : Blend) : (s.setBlend x).speed = s.speed := rfl
@[simp] theorem State.setBlend_slide (s : State) (x : Blend) : (s.setBlend x).slide = s.slide := rfl
@[simp] theorem State.setBlend_inc (s : State) (x : Blend) : (s.setBlend x).inc = s.inc := rfl
@[simp] theorem State.setBlend_mem (s : State) (x : Blend) : (s.setBlend x).mem = s.mem := rfl
@[simp] theorem State.setBlend_vbak (s : State) (x : Blend) : (s.setBlend x).vbak = s.vbak := rfl
@[simp] theorem State.setBlend_memLost (s : State) (x : Blend) : (s.setBlend x).memLost = s.memLost := rfl
@[simp] theorem State.setBlend_diag (s : State) (x : Blend) : (s.setBlend x).diag = s.diag := rfl
@[simp] theorem State.setBlend_counters (s : State) (x : Blend) : (s.setBlend x).counters = s.counters := rfl
@[simp] theorem State.setBlend_params (s : State) (x : Blend) : (s.setBlend x).params = s.params := rfl
@[simp] theorem State.setBlend_brkFault (s : State) (x : Blend) : (s.setBlend x).brkFault = s.brkFault := rfl
@[simp] theorem State.setBlend_dump (s : State) (x : Blend) : (s.setBlend x).dump = s.dump := rfl
@[simp] theorem State.setBlend_sent (s : State) (x : Blend) : (s.setBlend x).sent = s.sent := rfl
@[simp] theorem State.setBlend_choice (s : State) (x : Blend) : (s.setBlend x).choice = s.choice := rfl
@[simp] theorem State.setBlend_self (s : State) : s.setBlend s.blend = s := rfl
@[simp] theorem State.setBlend_twice (s : State) (x y : Blend) : (s.setBlend x).setBlend y = s.setBlend y := rfl

@[simp] theorem State.setTach_pending (s : State) (x : PerAxle TachInput) : (s.setTach x).pending = s.pending := rfl
@[simp] theorem State.setTach_clock (s : State) (x : PerAxle TachInput) : (s.setTach x).clock = s.clock := rfl
@[simp] theorem State.setTach_phase (s : State) (x : PerAxle TachInput) : (s.setTach x).phase = s.phase := rfl
@[simp] theorem State.setTach_links (s : State) (x : PerAxle TachInput) : (s.setTach x).links = s.links := rfl
@[simp] theorem State.setTach_posted (s : State) (x : PerAxle TachInput) : (s.setTach x).posted = s.posted := rfl
@[simp] theorem State.setTach_exc (s : State) (x : PerAxle TachInput) : (s.setTach x).exc = s.exc := rfl
@[simp] theorem State.setTach_demand (s : State) (x : PerAxle TachInput) : (s.setTach x).demand = s.demand := rfl
@[simp] theorem State.setTach_res (s : State) (x : PerAxle TachInput) : (s.setTach x).res = s.res := rfl
@[simp] theorem State.setTach_blend (s : State) (x : PerAxle TachInput) : (s.setTach x).blend = s.blend := rfl
@[simp] theorem State.setTach_tach (s : State) (x : PerAxle TachInput) : (s.setTach x).tach = x := rfl
@[simp] theorem State.setTach_speed (s : State) (x : PerAxle TachInput) : (s.setTach x).speed = s.speed := rfl
@[simp] theorem State.setTach_slide (s : State) (x : PerAxle TachInput) : (s.setTach x).slide = s.slide := rfl
@[simp] theorem State.setTach_inc (s : State) (x : PerAxle TachInput) : (s.setTach x).inc = s.inc := rfl
@[simp] theorem State.setTach_mem (s : State) (x : PerAxle TachInput) : (s.setTach x).mem = s.mem := rfl
@[simp] theorem State.setTach_vbak (s : State) (x : PerAxle TachInput) : (s.setTach x).vbak = s.vbak := rfl
@[simp] theorem State.setTach_memLost (s : State) (x : PerAxle TachInput) : (s.setTach x).memLost = s.memLost := rfl
@[simp] theorem State.setTach_diag (s : State) (x : PerAxle TachInput) : (s.setTach x).diag = s.diag := rfl
@[simp] theorem State.setTach_counters (s : State) (x : PerAxle TachInput) : (s.setTach x).counters = s.counters := rfl
@[simp] theorem State.setTach_params (s : State) (x : PerAxle TachInput) : (s.setTach x).params = s.params := rfl
@[simp] theorem State.setTach_brkFault (s : State) (x : PerAxle TachInput) : (s.setTach x).brkFault = s.brkFault := rfl
@[simp] theorem State.setTach_dump (s : State) (x : PerAxle TachInput) : (s.setTach x).dump = s.dump := rfl
@[simp] theorem State.setTach_sent (s : State) (x : PerAxle TachInput) : (s.setTach x).sent = s.sent := rfl
@[simp] theorem State.setTach_choice (s : State) (x : PerAxle TachInput) : (s.setTach x).choice = s.choice := rfl
@[simp] theorem State.setTach_self (s : State) : s.setTach s.tach = s := rfl
@[simp] theorem State.setTach_twice (s : State) (x y : PerAxle TachInput) : (s.setTach x).setTach y = s.setTach y := rfl

@[simp] theorem State.setSpeed_pending (s : State) (x : SpeedUnit) : (s.setSpeed x).pending = s.pending := rfl
@[simp] theorem State.setSpeed_clock (s : State) (x : SpeedUnit) : (s.setSpeed x).clock = s.clock := rfl
@[simp] theorem State.setSpeed_phase (s : State) (x : SpeedUnit) : (s.setSpeed x).phase = s.phase := rfl
@[simp] theorem State.setSpeed_links (s : State) (x : SpeedUnit) : (s.setSpeed x).links = s.links := rfl
@[simp] theorem State.setSpeed_posted (s : State) (x : SpeedUnit) : (s.setSpeed x).posted = s.posted := rfl
@[simp] theorem State.setSpeed_exc (s : State) (x : SpeedUnit) : (s.setSpeed x).exc = s.exc := rfl
@[simp] theorem State.setSpeed_demand (s : State) (x : SpeedUnit) : (s.setSpeed x).demand = s.demand := rfl
@[simp] theorem State.setSpeed_res (s : State) (x : SpeedUnit) : (s.setSpeed x).res = s.res := rfl
@[simp] theorem State.setSpeed_blend (s : State) (x : SpeedUnit) : (s.setSpeed x).blend = s.blend := rfl
@[simp] theorem State.setSpeed_tach (s : State) (x : SpeedUnit) : (s.setSpeed x).tach = s.tach := rfl
@[simp] theorem State.setSpeed_speed (s : State) (x : SpeedUnit) : (s.setSpeed x).speed = x := rfl
@[simp] theorem State.setSpeed_slide (s : State) (x : SpeedUnit) : (s.setSpeed x).slide = s.slide := rfl
@[simp] theorem State.setSpeed_inc (s : State) (x : SpeedUnit) : (s.setSpeed x).inc = s.inc := rfl
@[simp] theorem State.setSpeed_mem (s : State) (x : SpeedUnit) : (s.setSpeed x).mem = s.mem := rfl
@[simp] theorem State.setSpeed_vbak (s : State) (x : SpeedUnit) : (s.setSpeed x).vbak = s.vbak := rfl
@[simp] theorem State.setSpeed_memLost (s : State) (x : SpeedUnit) : (s.setSpeed x).memLost = s.memLost := rfl
@[simp] theorem State.setSpeed_diag (s : State) (x : SpeedUnit) : (s.setSpeed x).diag = s.diag := rfl
@[simp] theorem State.setSpeed_counters (s : State) (x : SpeedUnit) : (s.setSpeed x).counters = s.counters := rfl
@[simp] theorem State.setSpeed_params (s : State) (x : SpeedUnit) : (s.setSpeed x).params = s.params := rfl
@[simp] theorem State.setSpeed_brkFault (s : State) (x : SpeedUnit) : (s.setSpeed x).brkFault = s.brkFault := rfl
@[simp] theorem State.setSpeed_dump (s : State) (x : SpeedUnit) : (s.setSpeed x).dump = s.dump := rfl
@[simp] theorem State.setSpeed_sent (s : State) (x : SpeedUnit) : (s.setSpeed x).sent = s.sent := rfl
@[simp] theorem State.setSpeed_choice (s : State) (x : SpeedUnit) : (s.setSpeed x).choice = s.choice := rfl
@[simp] theorem State.setSpeed_self (s : State) : s.setSpeed s.speed = s := rfl
@[simp] theorem State.setSpeed_twice (s : State) (x y : SpeedUnit) : (s.setSpeed x).setSpeed y = s.setSpeed y := rfl

@[simp] theorem State.setSlide_pending (s : State) (x : SlideUnit) : (s.setSlide x).pending = s.pending := rfl
@[simp] theorem State.setSlide_clock (s : State) (x : SlideUnit) : (s.setSlide x).clock = s.clock := rfl
@[simp] theorem State.setSlide_phase (s : State) (x : SlideUnit) : (s.setSlide x).phase = s.phase := rfl
@[simp] theorem State.setSlide_links (s : State) (x : SlideUnit) : (s.setSlide x).links = s.links := rfl
@[simp] theorem State.setSlide_posted (s : State) (x : SlideUnit) : (s.setSlide x).posted = s.posted := rfl
@[simp] theorem State.setSlide_exc (s : State) (x : SlideUnit) : (s.setSlide x).exc = s.exc := rfl
@[simp] theorem State.setSlide_demand (s : State) (x : SlideUnit) : (s.setSlide x).demand = s.demand := rfl
@[simp] theorem State.setSlide_res (s : State) (x : SlideUnit) : (s.setSlide x).res = s.res := rfl
@[simp] theorem State.setSlide_blend (s : State) (x : SlideUnit) : (s.setSlide x).blend = s.blend := rfl
@[simp] theorem State.setSlide_tach (s : State) (x : SlideUnit) : (s.setSlide x).tach = s.tach := rfl
@[simp] theorem State.setSlide_speed (s : State) (x : SlideUnit) : (s.setSlide x).speed = s.speed := rfl
@[simp] theorem State.setSlide_slide (s : State) (x : SlideUnit) : (s.setSlide x).slide = x := rfl
@[simp] theorem State.setSlide_inc (s : State) (x : SlideUnit) : (s.setSlide x).inc = s.inc := rfl
@[simp] theorem State.setSlide_mem (s : State) (x : SlideUnit) : (s.setSlide x).mem = s.mem := rfl
@[simp] theorem State.setSlide_vbak (s : State) (x : SlideUnit) : (s.setSlide x).vbak = s.vbak := rfl
@[simp] theorem State.setSlide_memLost (s : State) (x : SlideUnit) : (s.setSlide x).memLost = s.memLost := rfl
@[simp] theorem State.setSlide_diag (s : State) (x : SlideUnit) : (s.setSlide x).diag = s.diag := rfl
@[simp] theorem State.setSlide_counters (s : State) (x : SlideUnit) : (s.setSlide x).counters = s.counters := rfl
@[simp] theorem State.setSlide_params (s : State) (x : SlideUnit) : (s.setSlide x).params = s.params := rfl
@[simp] theorem State.setSlide_brkFault (s : State) (x : SlideUnit) : (s.setSlide x).brkFault = s.brkFault := rfl
@[simp] theorem State.setSlide_dump (s : State) (x : SlideUnit) : (s.setSlide x).dump = s.dump := rfl
@[simp] theorem State.setSlide_sent (s : State) (x : SlideUnit) : (s.setSlide x).sent = s.sent := rfl
@[simp] theorem State.setSlide_choice (s : State) (x : SlideUnit) : (s.setSlide x).choice = s.choice := rfl
@[simp] theorem State.setSlide_self (s : State) : s.setSlide s.slide = s := rfl
@[simp] theorem State.setSlide_twice (s : State) (x y : SlideUnit) : (s.setSlide x).setSlide y = s.setSlide y := rfl

@[simp] theorem State.setInc_pending (s : State) (x : Recorder) : (s.setInc x).pending = s.pending := rfl
@[simp] theorem State.setInc_clock (s : State) (x : Recorder) : (s.setInc x).clock = s.clock := rfl
@[simp] theorem State.setInc_phase (s : State) (x : Recorder) : (s.setInc x).phase = s.phase := rfl
@[simp] theorem State.setInc_links (s : State) (x : Recorder) : (s.setInc x).links = s.links := rfl
@[simp] theorem State.setInc_posted (s : State) (x : Recorder) : (s.setInc x).posted = s.posted := rfl
@[simp] theorem State.setInc_exc (s : State) (x : Recorder) : (s.setInc x).exc = s.exc := rfl
@[simp] theorem State.setInc_demand (s : State) (x : Recorder) : (s.setInc x).demand = s.demand := rfl
@[simp] theorem State.setInc_res (s : State) (x : Recorder) : (s.setInc x).res = s.res := rfl
@[simp] theorem State.setInc_blend (s : State) (x : Recorder) : (s.setInc x).blend = s.blend := rfl
@[simp] theorem State.setInc_tach (s : State) (x : Recorder) : (s.setInc x).tach = s.tach := rfl
@[simp] theorem State.setInc_speed (s : State) (x : Recorder) : (s.setInc x).speed = s.speed := rfl
@[simp] theorem State.setInc_slide (s : State) (x : Recorder) : (s.setInc x).slide = s.slide := rfl
@[simp] theorem State.setInc_inc (s : State) (x : Recorder) : (s.setInc x).inc = x := rfl
@[simp] theorem State.setInc_mem (s : State) (x : Recorder) : (s.setInc x).mem = s.mem := rfl
@[simp] theorem State.setInc_vbak (s : State) (x : Recorder) : (s.setInc x).vbak = s.vbak := rfl
@[simp] theorem State.setInc_memLost (s : State) (x : Recorder) : (s.setInc x).memLost = s.memLost := rfl
@[simp] theorem State.setInc_diag (s : State) (x : Recorder) : (s.setInc x).diag = s.diag := rfl
@[simp] theorem State.setInc_counters (s : State) (x : Recorder) : (s.setInc x).counters = s.counters := rfl
@[simp] theorem State.setInc_params (s : State) (x : Recorder) : (s.setInc x).params = s.params := rfl
@[simp] theorem State.setInc_brkFault (s : State) (x : Recorder) : (s.setInc x).brkFault = s.brkFault := rfl
@[simp] theorem State.setInc_dump (s : State) (x : Recorder) : (s.setInc x).dump = s.dump := rfl
@[simp] theorem State.setInc_sent (s : State) (x : Recorder) : (s.setInc x).sent = s.sent := rfl
@[simp] theorem State.setInc_choice (s : State) (x : Recorder) : (s.setInc x).choice = s.choice := rfl
@[simp] theorem State.setInc_self (s : State) : s.setInc s.inc = s := rfl
@[simp] theorem State.setInc_twice (s : State) (x y : Recorder) : (s.setInc x).setInc y = s.setInc y := rfl

@[simp] theorem State.setMem_pending (s : State) (x : Memory) : (s.setMem x).pending = s.pending := rfl
@[simp] theorem State.setMem_clock (s : State) (x : Memory) : (s.setMem x).clock = s.clock := rfl
@[simp] theorem State.setMem_phase (s : State) (x : Memory) : (s.setMem x).phase = s.phase := rfl
@[simp] theorem State.setMem_links (s : State) (x : Memory) : (s.setMem x).links = s.links := rfl
@[simp] theorem State.setMem_posted (s : State) (x : Memory) : (s.setMem x).posted = s.posted := rfl
@[simp] theorem State.setMem_exc (s : State) (x : Memory) : (s.setMem x).exc = s.exc := rfl
@[simp] theorem State.setMem_demand (s : State) (x : Memory) : (s.setMem x).demand = s.demand := rfl
@[simp] theorem State.setMem_res (s : State) (x : Memory) : (s.setMem x).res = s.res := rfl
@[simp] theorem State.setMem_blend (s : State) (x : Memory) : (s.setMem x).blend = s.blend := rfl
@[simp] theorem State.setMem_tach (s : State) (x : Memory) : (s.setMem x).tach = s.tach := rfl
@[simp] theorem State.setMem_speed (s : State) (x : Memory) : (s.setMem x).speed = s.speed := rfl
@[simp] theorem State.setMem_slide (s : State) (x : Memory) : (s.setMem x).slide = s.slide := rfl
@[simp] theorem State.setMem_inc (s : State) (x : Memory) : (s.setMem x).inc = s.inc := rfl
@[simp] theorem State.setMem_mem (s : State) (x : Memory) : (s.setMem x).mem = x := rfl
@[simp] theorem State.setMem_vbak (s : State) (x : Memory) : (s.setMem x).vbak = s.vbak := rfl
@[simp] theorem State.setMem_memLost (s : State) (x : Memory) : (s.setMem x).memLost = s.memLost := rfl
@[simp] theorem State.setMem_diag (s : State) (x : Memory) : (s.setMem x).diag = s.diag := rfl
@[simp] theorem State.setMem_counters (s : State) (x : Memory) : (s.setMem x).counters = s.counters := rfl
@[simp] theorem State.setMem_params (s : State) (x : Memory) : (s.setMem x).params = s.params := rfl
@[simp] theorem State.setMem_brkFault (s : State) (x : Memory) : (s.setMem x).brkFault = s.brkFault := rfl
@[simp] theorem State.setMem_dump (s : State) (x : Memory) : (s.setMem x).dump = s.dump := rfl
@[simp] theorem State.setMem_sent (s : State) (x : Memory) : (s.setMem x).sent = s.sent := rfl
@[simp] theorem State.setMem_choice (s : State) (x : Memory) : (s.setMem x).choice = s.choice := rfl
@[simp] theorem State.setMem_self (s : State) : s.setMem s.mem = s := rfl
@[simp] theorem State.setMem_twice (s : State) (x y : Memory) : (s.setMem x).setMem y = s.setMem y := rfl

@[simp] theorem State.setVbak_pending (s : State) (x : Bool) : (s.setVbak x).pending = s.pending := rfl
@[simp] theorem State.setVbak_clock (s : State) (x : Bool) : (s.setVbak x).clock = s.clock := rfl
@[simp] theorem State.setVbak_phase (s : State) (x : Bool) : (s.setVbak x).phase = s.phase := rfl
@[simp] theorem State.setVbak_links (s : State) (x : Bool) : (s.setVbak x).links = s.links := rfl
@[simp] theorem State.setVbak_posted (s : State) (x : Bool) : (s.setVbak x).posted = s.posted := rfl
@[simp] theorem State.setVbak_exc (s : State) (x : Bool) : (s.setVbak x).exc = s.exc := rfl
@[simp] theorem State.setVbak_demand (s : State) (x : Bool) : (s.setVbak x).demand = s.demand := rfl
@[simp] theorem State.setVbak_res (s : State) (x : Bool) : (s.setVbak x).res = s.res := rfl
@[simp] theorem State.setVbak_blend (s : State) (x : Bool) : (s.setVbak x).blend = s.blend := rfl
@[simp] theorem State.setVbak_tach (s : State) (x : Bool) : (s.setVbak x).tach = s.tach := rfl
@[simp] theorem State.setVbak_speed (s : State) (x : Bool) : (s.setVbak x).speed = s.speed := rfl
@[simp] theorem State.setVbak_slide (s : State) (x : Bool) : (s.setVbak x).slide = s.slide := rfl
@[simp] theorem State.setVbak_inc (s : State) (x : Bool) : (s.setVbak x).inc = s.inc := rfl
@[simp] theorem State.setVbak_mem (s : State) (x : Bool) : (s.setVbak x).mem = s.mem := rfl
@[simp] theorem State.setVbak_vbak (s : State) (x : Bool) : (s.setVbak x).vbak = x := rfl
@[simp] theorem State.setVbak_memLost (s : State) (x : Bool) : (s.setVbak x).memLost = s.memLost := rfl
@[simp] theorem State.setVbak_diag (s : State) (x : Bool) : (s.setVbak x).diag = s.diag := rfl
@[simp] theorem State.setVbak_counters (s : State) (x : Bool) : (s.setVbak x).counters = s.counters := rfl
@[simp] theorem State.setVbak_params (s : State) (x : Bool) : (s.setVbak x).params = s.params := rfl
@[simp] theorem State.setVbak_brkFault (s : State) (x : Bool) : (s.setVbak x).brkFault = s.brkFault := rfl
@[simp] theorem State.setVbak_dump (s : State) (x : Bool) : (s.setVbak x).dump = s.dump := rfl
@[simp] theorem State.setVbak_sent (s : State) (x : Bool) : (s.setVbak x).sent = s.sent := rfl
@[simp] theorem State.setVbak_choice (s : State) (x : Bool) : (s.setVbak x).choice = s.choice := rfl
@[simp] theorem State.setVbak_self (s : State) : s.setVbak s.vbak = s := rfl
@[simp] theorem State.setVbak_twice (s : State) (x y : Bool) : (s.setVbak x).setVbak y = s.setVbak y := rfl

@[simp] theorem State.setMemLost_pending (s : State) (x : Bool) : (s.setMemLost x).pending = s.pending := rfl
@[simp] theorem State.setMemLost_clock (s : State) (x : Bool) : (s.setMemLost x).clock = s.clock := rfl
@[simp] theorem State.setMemLost_phase (s : State) (x : Bool) : (s.setMemLost x).phase = s.phase := rfl
@[simp] theorem State.setMemLost_links (s : State) (x : Bool) : (s.setMemLost x).links = s.links := rfl
@[simp] theorem State.setMemLost_posted (s : State) (x : Bool) : (s.setMemLost x).posted = s.posted := rfl
@[simp] theorem State.setMemLost_exc (s : State) (x : Bool) : (s.setMemLost x).exc = s.exc := rfl
@[simp] theorem State.setMemLost_demand (s : State) (x : Bool) : (s.setMemLost x).demand = s.demand := rfl
@[simp] theorem State.setMemLost_res (s : State) (x : Bool) : (s.setMemLost x).res = s.res := rfl
@[simp] theorem State.setMemLost_blend (s : State) (x : Bool) : (s.setMemLost x).blend = s.blend := rfl
@[simp] theorem State.setMemLost_tach (s : State) (x : Bool) : (s.setMemLost x).tach = s.tach := rfl
@[simp] theorem State.setMemLost_speed (s : State) (x : Bool) : (s.setMemLost x).speed = s.speed := rfl
@[simp] theorem State.setMemLost_slide (s : State) (x : Bool) : (s.setMemLost x).slide = s.slide := rfl
@[simp] theorem State.setMemLost_inc (s : State) (x : Bool) : (s.setMemLost x).inc = s.inc := rfl
@[simp] theorem State.setMemLost_mem (s : State) (x : Bool) : (s.setMemLost x).mem = s.mem := rfl
@[simp] theorem State.setMemLost_vbak (s : State) (x : Bool) : (s.setMemLost x).vbak = s.vbak := rfl
@[simp] theorem State.setMemLost_memLost (s : State) (x : Bool) : (s.setMemLost x).memLost = x := rfl
@[simp] theorem State.setMemLost_diag (s : State) (x : Bool) : (s.setMemLost x).diag = s.diag := rfl
@[simp] theorem State.setMemLost_counters (s : State) (x : Bool) : (s.setMemLost x).counters = s.counters := rfl
@[simp] theorem State.setMemLost_params (s : State) (x : Bool) : (s.setMemLost x).params = s.params := rfl
@[simp] theorem State.setMemLost_brkFault (s : State) (x : Bool) : (s.setMemLost x).brkFault = s.brkFault := rfl
@[simp] theorem State.setMemLost_dump (s : State) (x : Bool) : (s.setMemLost x).dump = s.dump := rfl
@[simp] theorem State.setMemLost_sent (s : State) (x : Bool) : (s.setMemLost x).sent = s.sent := rfl
@[simp] theorem State.setMemLost_choice (s : State) (x : Bool) : (s.setMemLost x).choice = s.choice := rfl
@[simp] theorem State.setMemLost_self (s : State) : s.setMemLost s.memLost = s := rfl
@[simp] theorem State.setMemLost_twice (s : State) (x y : Bool) : (s.setMemLost x).setMemLost y = s.setMemLost y := rfl

@[simp] theorem State.setDiag_pending (s : State) (x : DiagSel) : (s.setDiag x).pending = s.pending := rfl
@[simp] theorem State.setDiag_clock (s : State) (x : DiagSel) : (s.setDiag x).clock = s.clock := rfl
@[simp] theorem State.setDiag_phase (s : State) (x : DiagSel) : (s.setDiag x).phase = s.phase := rfl
@[simp] theorem State.setDiag_links (s : State) (x : DiagSel) : (s.setDiag x).links = s.links := rfl
@[simp] theorem State.setDiag_posted (s : State) (x : DiagSel) : (s.setDiag x).posted = s.posted := rfl
@[simp] theorem State.setDiag_exc (s : State) (x : DiagSel) : (s.setDiag x).exc = s.exc := rfl
@[simp] theorem State.setDiag_demand (s : State) (x : DiagSel) : (s.setDiag x).demand = s.demand := rfl
@[simp] theorem State.setDiag_res (s : State) (x : DiagSel) : (s.setDiag x).res = s.res := rfl
@[simp] theorem State.setDiag_blend (s : State) (x : DiagSel) : (s.setDiag x).blend = s.blend := rfl
@[simp] theorem State.setDiag_tach (s : State) (x : DiagSel) : (s.setDiag x).tach = s.tach := rfl
@[simp] theorem State.setDiag_speed (s : State) (x : DiagSel) : (s.setDiag x).speed = s.speed := rfl
@[simp] theorem State.setDiag_slide (s : State) (x : DiagSel) : (s.setDiag x).slide = s.slide := rfl
@[simp] theorem State.setDiag_inc (s : State) (x : DiagSel) : (s.setDiag x).inc = s.inc := rfl
@[simp] theorem State.setDiag_mem (s : State) (x : DiagSel) : (s.setDiag x).mem = s.mem := rfl
@[simp] theorem State.setDiag_vbak (s : State) (x : DiagSel) : (s.setDiag x).vbak = s.vbak := rfl
@[simp] theorem State.setDiag_memLost (s : State) (x : DiagSel) : (s.setDiag x).memLost = s.memLost := rfl
@[simp] theorem State.setDiag_diag (s : State) (x : DiagSel) : (s.setDiag x).diag = x := rfl
@[simp] theorem State.setDiag_counters (s : State) (x : DiagSel) : (s.setDiag x).counters = s.counters := rfl
@[simp] theorem State.setDiag_params (s : State) (x : DiagSel) : (s.setDiag x).params = s.params := rfl
@[simp] theorem State.setDiag_brkFault (s : State) (x : DiagSel) : (s.setDiag x).brkFault = s.brkFault := rfl
@[simp] theorem State.setDiag_dump (s : State) (x : DiagSel) : (s.setDiag x).dump = s.dump := rfl
@[simp] theorem State.setDiag_sent (s : State) (x : DiagSel) : (s.setDiag x).sent = s.sent := rfl
@[simp] theorem State.setDiag_choice (s : State) (x : DiagSel) : (s.setDiag x).choice = s.choice := rfl
@[simp] theorem State.setDiag_self (s : State) : s.setDiag s.diag = s := rfl
@[simp] theorem State.setDiag_twice (s : State) (x y : DiagSel) : (s.setDiag x).setDiag y = s.setDiag y := rfl

@[simp] theorem State.setCounters_pending (s : State) (x : PerCounter Counter) : (s.setCounters x).pending = s.pending := rfl
@[simp] theorem State.setCounters_clock (s : State) (x : PerCounter Counter) : (s.setCounters x).clock = s.clock := rfl
@[simp] theorem State.setCounters_phase (s : State) (x : PerCounter Counter) : (s.setCounters x).phase = s.phase := rfl
@[simp] theorem State.setCounters_links (s : State) (x : PerCounter Counter) : (s.setCounters x).links = s.links := rfl
@[simp] theorem State.setCounters_posted (s : State) (x : PerCounter Counter) : (s.setCounters x).posted = s.posted := rfl
@[simp] theorem State.setCounters_exc (s : State) (x : PerCounter Counter) : (s.setCounters x).exc = s.exc := rfl
@[simp] theorem State.setCounters_demand (s : State) (x : PerCounter Counter) : (s.setCounters x).demand = s.demand := rfl
@[simp] theorem State.setCounters_res (s : State) (x : PerCounter Counter) : (s.setCounters x).res = s.res := rfl
@[simp] theorem State.setCounters_blend (s : State) (x : PerCounter Counter) : (s.setCounters x).blend = s.blend := rfl
@[simp] theorem State.setCounters_tach (s : State) (x : PerCounter Counter) : (s.setCounters x).tach = s.tach := rfl
@[simp] theorem State.setCounters_speed (s : State) (x : PerCounter Counter) : (s.setCounters x).speed = s.speed := rfl
@[simp] theorem State.setCounters_slide (s : State) (x : PerCounter Counter) : (s.setCounters x).slide = s.slide := rfl
@[simp] theorem State.setCounters_inc (s : State) (x : PerCounter Counter) : (s.setCounters x).inc = s.inc := rfl
@[simp] theorem State.setCounters_mem (s : State) (x : PerCounter Counter) : (s.setCounters x).mem = s.mem := rfl
@[simp] theorem State.setCounters_vbak (s : State) (x : PerCounter Counter) : (s.setCounters x).vbak = s.vbak := rfl
@[simp] theorem State.setCounters_memLost (s : State) (x : PerCounter Counter) : (s.setCounters x).memLost = s.memLost := rfl
@[simp] theorem State.setCounters_diag (s : State) (x : PerCounter Counter) : (s.setCounters x).diag = s.diag := rfl
@[simp] theorem State.setCounters_counters (s : State) (x : PerCounter Counter) : (s.setCounters x).counters = x := rfl
@[simp] theorem State.setCounters_params (s : State) (x : PerCounter Counter) : (s.setCounters x).params = s.params := rfl
@[simp] theorem State.setCounters_brkFault (s : State) (x : PerCounter Counter) : (s.setCounters x).brkFault = s.brkFault := rfl
@[simp] theorem State.setCounters_dump (s : State) (x : PerCounter Counter) : (s.setCounters x).dump = s.dump := rfl
@[simp] theorem State.setCounters_sent (s : State) (x : PerCounter Counter) : (s.setCounters x).sent = s.sent := rfl
@[simp] theorem State.setCounters_choice (s : State) (x : PerCounter Counter) : (s.setCounters x).choice = s.choice := rfl
@[simp] theorem State.setCounters_self (s : State) : s.setCounters s.counters = s := rfl
@[simp] theorem State.setCounters_twice (s : State) (x y : PerCounter Counter) : (s.setCounters x).setCounters y = s.setCounters y := rfl

@[simp] theorem State.setParams_pending (s : State) (x : Params) : (s.setParams x).pending = s.pending := rfl
@[simp] theorem State.setParams_clock (s : State) (x : Params) : (s.setParams x).clock = s.clock := rfl
@[simp] theorem State.setParams_phase (s : State) (x : Params) : (s.setParams x).phase = s.phase := rfl
@[simp] theorem State.setParams_links (s : State) (x : Params) : (s.setParams x).links = s.links := rfl
@[simp] theorem State.setParams_posted (s : State) (x : Params) : (s.setParams x).posted = s.posted := rfl
@[simp] theorem State.setParams_exc (s : State) (x : Params) : (s.setParams x).exc = s.exc := rfl
@[simp] theorem State.setParams_demand (s : State) (x : Params) : (s.setParams x).demand = s.demand := rfl
@[simp] theorem State.setParams_res (s : State) (x : Params) : (s.setParams x).res = s.res := rfl
@[simp] theorem State.setParams_blend (s : State) (x : Params) : (s.setParams x).blend = s.blend := rfl
@[simp] theorem State.setParams_tach (s : State) (x : Params) : (s.setParams x).tach = s.tach := rfl
@[simp] theorem State.setParams_speed (s : State) (x : Params) : (s.setParams x).speed = s.speed := rfl
@[simp] theorem State.setParams_slide (s : State) (x : Params) : (s.setParams x).slide = s.slide := rfl
@[simp] theorem State.setParams_inc (s : State) (x : Params) : (s.setParams x).inc = s.inc := rfl
@[simp] theorem State.setParams_mem (s : State) (x : Params) : (s.setParams x).mem = s.mem := rfl
@[simp] theorem State.setParams_vbak (s : State) (x : Params) : (s.setParams x).vbak = s.vbak := rfl
@[simp] theorem State.setParams_memLost (s : State) (x : Params) : (s.setParams x).memLost = s.memLost := rfl
@[simp] theorem State.setParams_diag (s : State) (x : Params) : (s.setParams x).diag = s.diag := rfl
@[simp] theorem State.setParams_counters (s : State) (x : Params) : (s.setParams x).counters = s.counters := rfl
@[simp] theorem State.setParams_params (s : State) (x : Params) : (s.setParams x).params = x := rfl
@[simp] theorem State.setParams_brkFault (s : State) (x : Params) : (s.setParams x).brkFault = s.brkFault := rfl
@[simp] theorem State.setParams_dump (s : State) (x : Params) : (s.setParams x).dump = s.dump := rfl
@[simp] theorem State.setParams_sent (s : State) (x : Params) : (s.setParams x).sent = s.sent := rfl
@[simp] theorem State.setParams_choice (s : State) (x : Params) : (s.setParams x).choice = s.choice := rfl
@[simp] theorem State.setParams_self (s : State) : s.setParams s.params = s := rfl
@[simp] theorem State.setParams_twice (s : State) (x y : Params) : (s.setParams x).setParams y = s.setParams y := rfl

@[simp] theorem State.setBrkFault_pending (s : State) (x : Bool) : (s.setBrkFault x).pending = s.pending := rfl
@[simp] theorem State.setBrkFault_clock (s : State) (x : Bool) : (s.setBrkFault x).clock = s.clock := rfl
@[simp] theorem State.setBrkFault_phase (s : State) (x : Bool) : (s.setBrkFault x).phase = s.phase := rfl
@[simp] theorem State.setBrkFault_links (s : State) (x : Bool) : (s.setBrkFault x).links = s.links := rfl
@[simp] theorem State.setBrkFault_posted (s : State) (x : Bool) : (s.setBrkFault x).posted = s.posted := rfl
@[simp] theorem State.setBrkFault_exc (s : State) (x : Bool) : (s.setBrkFault x).exc = s.exc := rfl
@[simp] theorem State.setBrkFault_demand (s : State) (x : Bool) : (s.setBrkFault x).demand = s.demand := rfl
@[simp] theorem State.setBrkFault_res (s : State) (x : Bool) : (s.setBrkFault x).res = s.res := rfl
@[simp] theorem State.setBrkFault_blend (s : State) (x : Bool) : (s.setBrkFault x).blend = s.blend := rfl
@[simp] theorem State.setBrkFault_tach (s : State) (x : Bool) : (s.setBrkFault x).tach = s.tach := rfl
@[simp] theorem State.setBrkFault_speed (s : State) (x : Bool) : (s.setBrkFault x).speed = s.speed := rfl
@[simp] theorem State.setBrkFault_slide (s : State) (x : Bool) : (s.setBrkFault x).slide = s.slide := rfl
@[simp] theorem State.setBrkFault_inc (s : State) (x : Bool) : (s.setBrkFault x).inc = s.inc := rfl
@[simp] theorem State.setBrkFault_mem (s : State) (x : Bool) : (s.setBrkFault x).mem = s.mem := rfl
@[simp] theorem State.setBrkFault_vbak (s : State) (x : Bool) : (s.setBrkFault x).vbak = s.vbak := rfl
@[simp] theorem State.setBrkFault_memLost (s : State) (x : Bool) : (s.setBrkFault x).memLost = s.memLost := rfl
@[simp] theorem State.setBrkFault_diag (s : State) (x : Bool) : (s.setBrkFault x).diag = s.diag := rfl
@[simp] theorem State.setBrkFault_counters (s : State) (x : Bool) : (s.setBrkFault x).counters = s.counters := rfl
@[simp] theorem State.setBrkFault_params (s : State) (x : Bool) : (s.setBrkFault x).params = s.params := rfl
@[simp] theorem State.setBrkFault_brkFault (s : State) (x : Bool) : (s.setBrkFault x).brkFault = x := rfl
@[simp] theorem State.setBrkFault_dump (s : State) (x : Bool) : (s.setBrkFault x).dump = s.dump := rfl
@[simp] theorem State.setBrkFault_sent (s : State) (x : Bool) : (s.setBrkFault x).sent = s.sent := rfl
@[simp] theorem State.setBrkFault_choice (s : State) (x : Bool) : (s.setBrkFault x).choice = s.choice := rfl
@[simp] theorem State.setBrkFault_self (s : State) : s.setBrkFault s.brkFault = s := rfl
@[simp] theorem State.setBrkFault_twice (s : State) (x y : Bool) : (s.setBrkFault x).setBrkFault y = s.setBrkFault y := rfl

@[simp] theorem State.setDump_pending (s : State) (x : PerTruck Bool) : (s.setDump x).pending = s.pending := rfl
@[simp] theorem State.setDump_clock (s : State) (x : PerTruck Bool) : (s.setDump x).clock = s.clock := rfl
@[simp] theorem State.setDump_phase (s : State) (x : PerTruck Bool) : (s.setDump x).phase = s.phase := rfl
@[simp] theorem State.setDump_links (s : State) (x : PerTruck Bool) : (s.setDump x).links = s.links := rfl
@[simp] theorem State.setDump_posted (s : State) (x : PerTruck Bool) : (s.setDump x).posted = s.posted := rfl
@[simp] theorem State.setDump_exc (s : State) (x : PerTruck Bool) : (s.setDump x).exc = s.exc := rfl
@[simp] theorem State.setDump_demand (s : State) (x : PerTruck Bool) : (s.setDump x).demand = s.demand := rfl
@[simp] theorem State.setDump_res (s : State) (x : PerTruck Bool) : (s.setDump x).res = s.res := rfl
@[simp] theorem State.setDump_blend (s : State) (x : PerTruck Bool) : (s.setDump x).blend = s.blend := rfl
@[simp] theorem State.setDump_tach (s : State) (x : PerTruck Bool) : (s.setDump x).tach = s.tach := rfl
@[simp] theorem State.setDump_speed (s : State) (x : PerTruck Bool) : (s.setDump x).speed = s.speed := rfl
@[simp] theorem State.setDump_slide (s : State) (x : PerTruck Bool) : (s.setDump x).slide = s.slide := rfl
@[simp] theorem State.setDump_inc (s : State) (x : PerTruck Bool) : (s.setDump x).inc = s.inc := rfl
@[simp] theorem State.setDump_mem (s : State) (x : PerTruck Bool) : (s.setDump x).mem = s.mem := rfl
@[simp] theorem State.setDump_vbak (s : State) (x : PerTruck Bool) : (s.setDump x).vbak = s.vbak := rfl
@[simp] theorem State.setDump_memLost (s : State) (x : PerTruck Bool) : (s.setDump x).memLost = s.memLost := rfl
@[simp] theorem State.setDump_diag (s : State) (x : PerTruck Bool) : (s.setDump x).diag = s.diag := rfl
@[simp] theorem State.setDump_counters (s : State) (x : PerTruck Bool) : (s.setDump x).counters = s.counters := rfl
@[simp] theorem State.setDump_params (s : State) (x : PerTruck Bool) : (s.setDump x).params = s.params := rfl
@[simp] theorem State.setDump_brkFault (s : State) (x : PerTruck Bool) : (s.setDump x).brkFault = s.brkFault := rfl
@[simp] theorem State.setDump_dump (s : State) (x : PerTruck Bool) : (s.setDump x).dump = x := rfl
@[simp] theorem State.setDump_sent (s : State) (x : PerTruck Bool) : (s.setDump x).sent = s.sent := rfl
@[simp] theorem State.setDump_choice (s : State) (x : PerTruck Bool) : (s.setDump x).choice = s.choice := rfl
@[simp] theorem State.setDump_self (s : State) : s.setDump s.dump = s := rfl
@[simp] theorem State.setDump_twice (s : State) (x y : PerTruck Bool) : (s.setDump x).setDump y = s.setDump y := rfl

@[simp] theorem State.setSent_pending (s : State) (x : List Trigger) : (s.setSent x).pending = s.pending := rfl
@[simp] theorem State.setSent_clock (s : State) (x : List Trigger) : (s.setSent x).clock = s.clock := rfl
@[simp] theorem State.setSent_phase (s : State) (x : List Trigger) : (s.setSent x).phase = s.phase := rfl
@[simp] theorem State.setSent_links (s : State) (x : List Trigger) : (s.setSent x).links = s.links := rfl
@[simp] theorem State.setSent_posted (s : State) (x : List Trigger) : (s.setSent x).posted = s.posted := rfl
@[simp] theorem State.setSent_exc (s : State) (x : List Trigger) : (s.setSent x).exc = s.exc := rfl
@[simp] theorem State.setSent_demand (s : State) (x : List Trigger) : (s.setSent x).demand = s.demand := rfl
@[simp] theorem State.setSent_res (s : State) (x : List Trigger) : (s.setSent x).res = s.res := rfl
@[simp] theorem State.setSent_blend (s : State) (x : List Trigger) : (s.setSent x).blend = s.blend := rfl
@[simp] theorem State.setSent_tach (s : State) (x : List Trigger) : (s.setSent x).tach = s.tach := rfl
@[simp] theorem State.setSent_speed (s : State) (x : List Trigger) : (s.setSent x).speed = s.speed := rfl
@[simp] theorem State.setSent_slide (s : State) (x : List Trigger) : (s.setSent x).slide = s.slide := rfl
@[simp] theorem State.setSent_inc (s : State) (x : List Trigger) : (s.setSent x).inc = s.inc := rfl
@[simp] theorem State.setSent_mem (s : State) (x : List Trigger) : (s.setSent x).mem = s.mem := rfl
@[simp] theorem State.setSent_vbak (s : State) (x : List Trigger) : (s.setSent x).vbak = s.vbak := rfl
@[simp] theorem State.setSent_memLost (s : State) (x : List Trigger) : (s.setSent x).memLost = s.memLost := rfl
@[simp] theorem State.setSent_diag (s : State) (x : List Trigger) : (s.setSent x).diag = s.diag := rfl
@[simp] theorem State.setSent_counters (s : State) (x : List Trigger) : (s.setSent x).counters = s.counters := rfl
@[simp] theorem State.setSent_params (s : State) (x : List Trigger) : (s.setSent x).params = s.params := rfl
@[simp] theorem State.setSent_brkFault (s : State) (x : List Trigger) : (s.setSent x).brkFault = s.brkFault := rfl
@[simp] theorem State.setSent_dump (s : State) (x : List Trigger) : (s.setSent x).dump = s.dump := rfl
@[simp] theorem State.setSent_sent (s : State) (x : List Trigger) : (s.setSent x).sent = x := rfl
@[simp] theorem State.setSent_choice (s : State) (x : List Trigger) : (s.setSent x).choice = s.choice := rfl
@[simp] theorem State.setSent_self (s : State) : s.setSent s.sent = s := rfl
@[simp] theorem State.setSent_twice (s : State) (x y : List Trigger) : (s.setSent x).setSent y = s.setSent y := rfl

@[simp] theorem State.setChoice_pending (s : State) (x : Nat) : (s.setChoice x).pending = s.pending := rfl
@[simp] theorem State.setChoice_clock (s : State) (x : Nat) : (s.setChoice x).clock = s.clock := rfl
@[simp] theorem State.setChoice_phase (s : State) (x : Nat) : (s.setChoice x).phase = s.phase := rfl
@[simp] theorem State.setChoice_links (s : State) (x : Nat) : (s.setChoice x).links = s.links := rfl
@[simp] theorem State.setChoice_posted (s : State) (x : Nat) : (s.setChoice x).posted = s.posted := rfl
@[simp] theorem State.setChoice_exc (s : State) (x : Nat) : (s.setChoice x).exc = s.exc := rfl
@[simp] theorem State.setChoice_demand (s : State) (x : Nat) : (s.setChoice x).demand = s.demand := rfl
@[simp] theorem State.setChoice_res (s : State) (x : Nat) : (s.setChoice x).res = s.res := rfl
@[simp] theorem State.setChoice_blend (s : State) (x : Nat) : (s.setChoice x).blend = s.blend := rfl
@[simp] theorem State.setChoice_tach (s : State) (x : Nat) : (s.setChoice x).tach = s.tach := rfl
@[simp] theorem State.setChoice_speed (s : State) (x : Nat) : (s.setChoice x).speed = s.speed := rfl
@[simp] theorem State.setChoice_slide (s : State) (x : Nat) : (s.setChoice x).slide = s.slide := rfl
@[simp] theorem State.setChoice_inc (s : State) (x : Nat) : (s.setChoice x).inc = s.inc := rfl
@[simp] theorem State.setChoice_mem (s : State) (x : Nat) : (s.setChoice x).mem = s.mem := rfl
@[simp] theorem State.setChoice_vbak (s : State) (x : Nat) : (s.setChoice x).vbak = s.vbak := rfl
@[simp] theorem State.setChoice_memLost (s : State) (x : Nat) : (s.setChoice x).memLost = s.memLost := rfl
@[simp] theorem State.setChoice_diag (s : State) (x : Nat) : (s.setChoice x).diag = s.diag := rfl
@[simp] theorem State.setChoice_counters (s : State) (x : Nat) : (s.setChoice x).counters = s.counters := rfl
@[simp] theorem State.setChoice_params (s : State) (x : Nat) : (s.setChoice x).params = s.params := rfl
@[simp] theorem State.setChoice_brkFault (s : State) (x : Nat) : (s.setChoice x).brkFault = s.brkFault := rfl
@[simp] theorem State.setChoice_dump (s : State) (x : Nat) : (s.setChoice x).dump = s.dump := rfl
@[simp] theorem State.setChoice_sent (s : State) (x : Nat) : (s.setChoice x).sent = s.sent := rfl
@[simp] theorem State.setChoice_choice (s : State) (x : Nat) : (s.setChoice x).choice = x := rfl
@[simp] theorem State.setChoice_self (s : State) : s.setChoice s.choice = s := rfl
@[simp] theorem State.setChoice_twice (s : State) (x y : Nat) : (s.setChoice x).setChoice y = s.setChoice y := rfl

end Sys2Proof.Machine
end

