-- ==== Sys2Proof/Laws/Ops.lean ====
section
/-! SUPPORT. What the shared operations can do: hand-offs in any order, counting, triggers, and the cuts of
the allocation record. -/

namespace Sys2Proof.Machine

/-! Hand-offs -/

/-- What every hand-off of a list keeps, all of them in the list's order keep. -/
theorem forEach_keeps {α : Type} (P : State → Prop) (xs : List α) (f : α → State → State)
    (h : ∀ x u, P u → P (f x u)) (s : State) (hs : P s) : P (forEach xs f s) := by
  unfold forEach
  induction xs generalizing s with
  | nil => exact hs
  | cons x xs ih => exact ih _ (h x s hs)

/-- What every hand-off keeps, and the count of free choices leaves alone, all of them keep in any
order. -/
theorem anyOrder_keeps (P : State → Prop) (hc : ∀ u n, P u → P (u.setChoice n)) (n : Nat) :
    ∀ (fs : List (State → State)) (s : State), (∀ f ∈ fs, ∀ u, P u → P (f u)) → P s →
      P (anyOrder n fs s) := by
  induction n with
  | zero => intro fs s _ hs; exact hs
  | succ n ih =>
    intro fs s h hs
    match fs with
    | [] => exact hs
    | [f] => exact h f (by simp) s hs
    | f :: g :: rest =>
      refine ih _ _ (fun x hx => h x (List.mem_of_mem_eraseIdx hx)) ?_
      refine h _ ?_ _ (hc _ _ hs)
      rw [List.getD_eq_getElem?_getD]
      cases hq : (f :: g :: rest)[Config.freeChoice s.choice % (f :: g :: rest).length]? with
      | none => simp
      | some x => simpa using List.mem_of_getElem? hq

/-- See `anyOrder_keeps`. -/
theorem inAnyOrder_keeps (P : State → Prop) (hc : ∀ u n, P u → P (u.setChoice n))
    (fs : List (State → State)) (h : ∀ f ∈ fs, ∀ u, P u → P (f u)) (s : State) (hs : P s) :
    P (inAnyOrder fs s) :=
  anyOrder_keeps P hc _ fs s h hs

/-- What one hand-off establishes and the others keep, holds after all of them in any order; `R` is what
all of them keep. -/
theorem inAnyOrder_reaches (R Q : State → Prop) (hRc : ∀ u n, R u → R (u.setChoice n))
    (hQc : ∀ u n, R u → Q u → Q (u.setChoice n)) (fs : List (State → State))
    (hR : ∀ f ∈ fs, ∀ u, R u → R (f u)) (hQ : ∀ f ∈ fs, ∀ u, R u → Q u → Q (f u))
    (f : State → State) (hf : f ∈ fs) (one : ∀ u, R u → Q (f u)) (s : State) (hs : R s) :
    Q (inAnyOrder fs s) := by
  have key : ∀ (n : Nat) (gs : List (State → State)) (u : State), gs.length = n →
      (∀ g ∈ gs, g ∈ fs) → R u → (Q u ∨ f ∈ gs) → Q (anyOrder n gs u) := by
    intro n
    induction n with
    | zero =>
      intro gs u hn _ _ h
      rcases h with h | h
      · exact h
      · rw [List.length_eq_zero_iff.mp hn] at h; simp at h
    | succ n ih =>
      intro gs u hn hg hu h
      match gs with
      | [] => simp at hn
      | [g] =>
        rcases h with h | h
        · exact hQ g (hg g (by simp)) u hu h
        · rw [List.mem_singleton] at h; subst h; exact one u hu
      | g :: g' :: rest =>
        have hm : Config.freeChoice u.choice % (g :: g' :: rest).length < (g :: g' :: rest).length :=
          Nat.mod_lt _ (by simp)
        have hx : (g :: g' :: rest).getD (Config.freeChoice u.choice % (g :: g' :: rest).length) g
            = (g :: g' :: rest)[Config.freeChoice u.choice % (g :: g' :: rest).length] := by
          rw [List.getD_eq_getElem?_getD, List.getElem?_eq_getElem hm]; rfl
        have hxm := List.getElem_mem hm
        simp only [anyOrder]
        rw [hx]
        refine ih _ _ ?_ (fun y hy => hg y (List.mem_of_mem_eraseIdx hy))
          (hR _ (hg _ hxm) _ (hRc _ _ hu)) ?_
        · rw [List.length_eraseIdx_of_lt hm]; simp at hn ⊢; omega
        · rcases h with h | h
          · exact .inl (hQ _ (hg _ hxm) _ (hRc _ _ hu) (hQc _ _ hu h))
          · by_cases he : (g :: g' :: rest)[Config.freeChoice u.choice % (g :: g' :: rest).length] = f
            · rw [he]; exact .inl (one _ (hRc _ _ hu))
            · refine .inr (List.mem_eraseIdx_iff_getElem.mpr ?_)
              obtain ⟨j, hj, hjf⟩ := List.mem_iff_getElem.mp h
              exact ⟨j, hj, fun hji => he (by rw [← hjf]; simp [hji]), hjf⟩
  exact key _ fs s rfl (fun _ h => h) hs (.inr hf)

/-- Hand-offs in an order left open bring what each of them brings, in some order. -/
theorem anyOrder_chained : ∀ (n : Nat) (fs : List (State → State)) (rs : List (State → State → Prop)),
    fs.length ≤ n → List.Forall₂ (fun f r => ∀ a, r a (f a)) fs rs →
    ∀ s, InSomeOrder rs s (anyOrder n fs s) := by
  intro n
  induction n with
  | zero =>
    intro fs rs hn h s
    cases fs with
    | nil => cases h; exact ⟨[], .nil, s.choice, rfl⟩
    | cons => simp at hn
  | succ n ih =>
    intro fs rs hn h s
    match fs, rs, h with
    | [], _, .nil => exact ⟨[], .nil, s.choice, rfl⟩
    | [f], _, .cons (b := r) hf .nil =>
      exact ⟨[r], .refl _, s.choice, f s, hf s, (f s).choice, rfl⟩
    | f :: g :: rest, rs, h =>
      simp only [anyOrder]
      have hlt : Config.freeChoice s.choice % (f :: g :: rest).length < (f :: g :: rest).length :=
        Nat.mod_lt _ (by simp)
      generalize hi : Config.freeChoice s.choice % (f :: g :: rest).length = i at hlt
      have hl := h.length_eq
      have hlr : i < rs.length := hl ▸ hlt
      have hfi : ∀ a, rs[i] a ((f :: g :: rest).getD i f a) := by
        have := (List.forall₂_iff_get.mp h).2 i hlt hlr
        intro a
        have := this a
        rw [List.getD_eq_getElem _ _ hlt]
        exact this
      have he : List.Forall₂ (fun f r => ∀ a, r a (f a)) ((f :: g :: rest).eraseIdx i) (rs.eraseIdx i) := by
        rw [List.eraseIdx_eq_take_drop_succ, List.eraseIdx_eq_take_drop_succ]
        exact List.rel_append (List.forall₂_take i h) (List.forall₂_drop (i + 1) h)
      obtain ⟨qs, hp, hc⟩ := ih _ _ (by
        rw [List.length_eraseIdx_of_lt hlt]
        simp at hn ⊢
        omega) he ((f :: g :: rest).getD i f (s.setChoice (s.choice + 1)))
      refine ⟨rs[i] :: qs, ?_, s.choice + 1, _, hfi _, hc⟩
      exact (hp.cons _).trans (List.getElem_cons_eraseIdx_perm hlr)

/-- All the hand-offs, in an order left open. -/
theorem inAnyOrder_chained (fs : List (State → State)) (rs : List (State → State → Prop))
    (h : List.Forall₂ (fun f r => ∀ a, r a (f a)) fs rs) (s : State) :
    InSomeOrder rs s (inAnyOrder fs s) :=
  anyOrder_chained _ _ _ (Nat.le_refl _) h s

/-! Counting and triggers -/

/-- An occurrence touches the counters alone. -/
theorem State.count_frame (s : State) (n : Nat) : ∃ c, s.count n = s.setCounters c := ⟨_, rfl⟩

/-- Each counter at an occurrence (R163). -/
@[simp] theorem State.count_get (s : State) (n : Nat) (i : CounterNo) :
    (s.count n).counters.get i = (s.counters.get i).occur n := by simp [State.count]

/-- Several occurrences touch the counters alone. -/
theorem State.countMany_frame (n k : Nat) : ∀ s : State, ∃ c, s.countMany n k = s.setCounters c := by
  induction k with
  | zero => intro s; exact ⟨s.counters, rfl⟩
  | succ k ih => intro s; obtain ⟨c, h⟩ := ih (s.count n); exact ⟨c, h⟩

/-- A trigger sent goes behind those on their way and touches nothing else. -/
theorem State.send_eq (s : State) (c : Cause) (d : Nat) :
    s.send c d = s.setSent (s.sent ++ [⟨c, BitVec.ofNat 8 d⟩]) := rfl

/-- An occurrence of an exception kind touches the flags and the triggers on their way. -/
theorem State.occur_frame (s : State) (k : ExcKind) (d : Nat) :
    ∃ e t, s.occur k d = (s.setExc e).setSent t := by
  unfold State.occur
  by_cases h : (s.exc.get k).masked = true
  · exact ⟨s.exc.set k ((s.exc.get k).occur d s.now), s.sent, by simp [h]; rfl⟩
  · exact ⟨s.exc.set k ((s.exc.get k).occur d s.now), _, by simp [h]; rfl⟩

/-! Cuts -/

/-- Nothing is a cut of nothing. -/
theorem OnlyCut.refl (b : Blend) : OnlyCut b b where
  timers := rfl
  record := rfl
  revision := le_refl _
  axles := fun _ => ⟨le_refl _, le_refl _⟩
  trucks := fun _ => ⟨rfl, le_refl _, le_refl _⟩

/-- Cuts one after another are cuts. -/
theorem OnlyCut.trans {a b c : Blend} (h : OnlyCut a b) (g : OnlyCut b c) : OnlyCut a c where
  timers := by rw [g.timers, h.timers]
  record := by rw [g.record, h.record]
  revision := le_trans h.revision g.revision
  axles := fun k =>
    ⟨le_trans (g.axles k).1 (h.axles k).1, le_trans (g.axles k).2 (h.axles k).2⟩
  trucks := fun t => by
    refine ⟨?_, le_trans (g.trucks t).2.1 (h.trucks t).2.1, le_trans (g.trucks t).2.2 (h.trucks t).2.2⟩
    rw [(g.trucks t).1, (h.trucks t).1]

/-- The revision does not fall at a bump. -/
theorem Alloc.bump_revision (r : Alloc) : r.revision ≤ r.bump.revision := by
  simp only [Alloc.bump]; split <;> omega

/-- All that a reduction of an axle can do: that axle's figures, and the revision (R79). -/
theorem Alloc.reduceAxle_cases (r : Alloc) (k : Axle) (b : Nat) (w : Reason) :
    (b < (r.axles.get k).target ∧
      r.reduceAxle k b w = { r.bump with axles := r.axles.set k ((r.axles.get k).cut b w) }) ∨
    ((r.axles.get k).target ≤ b ∧ r.reduceAxle k b w = r) := by
  unfold Alloc.reduceAxle
  split
  · exact .inl ⟨‹_›, rfl⟩
  · exact .inr ⟨by omega, rfl⟩

/-- All that a reduction of a truck can do (R80). -/
theorem Alloc.reduceTruck_cases (r : Alloc) (t : Truck) (b : Nat) :
    (b < (r.trucks.get t).target ∧
      r.reduceTruck t b = { r.bump with trucks := r.trucks.set t ((r.trucks.get t).cut b) }) ∨
    ((r.trucks.get t).target ≤ b ∧ r.reduceTruck t b = r) := by
  unfold Alloc.reduceTruck
  split
  · exact .inl ⟨‹_›, rfl⟩
  · exact .inr ⟨by omega, rfl⟩

/-- A reduction of an axle is a cut. -/
theorem State.reduceAxle_onlyCut (s : State) (k : Axle) (b : Nat) (w : Reason) :
    OnlyCut s.blend (s.reduceAxle k b w).blend := by
  rcases s.blend.record.reduceAxle_cases k b w with ⟨hb, h⟩ | ⟨_, h⟩
  · simp only [State.reduceAxle, State.setRecord, State.setBlend, h]
    refine ⟨rfl, rfl, Alloc.bump_revision _, fun j => ?_, fun _ => ⟨rfl, le_refl _, le_refl _⟩⟩
    simp only [PerAxle.get_set, AxleAlloc.cut]
    split
    · subst_vars; exact ⟨by simp; omega, by simp⟩
    · exact ⟨le_refl _, le_refl _⟩
  · simp only [State.reduceAxle, State.setRecord, State.setBlend, h]
    exact OnlyCut.refl _

/-- A reduction of a truck is a cut. -/
theorem State.reduceTruck_onlyCut (s : State) (t : Truck) (b : Nat) :
    OnlyCut s.blend (s.reduceTruck t b).blend := by
  rcases s.blend.record.reduceTruck_cases t b with ⟨hb, h⟩ | ⟨_, h⟩
  · simp only [State.reduceTruck, State.setRecord, State.setBlend, h]
    refine ⟨rfl, rfl, Alloc.bump_revision _, fun _ => ⟨le_refl _, le_refl _⟩, fun j => ?_⟩
    simp only [PerTruck.get_set, TruckAlloc.cut]
    split
    · subst_vars; exact ⟨by simp, by simp; omega, by simp⟩
    · exact ⟨rfl, le_refl _, le_refl _⟩
  · simp only [State.reduceTruck, State.setRecord, State.setBlend, h]
    exact OnlyCut.refl _

/-- A reduction by the resource table is a cut. -/
theorem State.reduceTruckByTable_onlyCut (s : State) (t : Truck) (b : Nat) :
    OnlyCut s.blend (s.reduceTruckByTable t b).blend := by
  unfold State.reduceTruckByTable
  split
  · exact OnlyCut.refl _
  · exact s.reduceTruck_onlyCut t b

end Sys2Proof.Machine
end

