-- ==== Sys2Proof/Laws/Frames.lean ====
section
/-! SUPPORT. What the operations of the blocks touch: each lemma writes the result as the state with the
touched fields replaced, so that every other field reads as before. -/

namespace Sys2Proof.Machine

/-- A state that differs from another in the table and the Blend Unit alone. -/
theorem resBlend_intro {s t : State} (h : t = (s.setRes t.res).setBlend t.blend) :
    ∃ r b, t = (s.setRes r).setBlend b := ⟨_, _, h⟩

/-- A state that differs from another in the Demand Unit, the table and the Blend Unit alone. -/
theorem demandResBlend_intro {s t : State} (h : t = ((s.setDemand t.demand).setRes t.res).setBlend t.blend) :
    ∃ d r b, t = ((s.setDemand d).setRes r).setBlend b := ⟨_, _, _, h⟩

/-! The Effort Resource Table: entries and cuts -/

/-- A re-derivation of EA_k touches the table and the Blend Unit. -/
theorem State.rederiveElectric_frame (s : State) (k : Axle) (e : Entry) :
    ∃ r b, s.rederiveElectric k e = (s.setRes r).setBlend b := by
  unfold State.rederiveElectric
  dsimp only
  split
  · exact resBlend_intro rfl
  · split
    · split
      · exact resBlend_intro rfl
      · exact resBlend_intro rfl
    · exact resBlend_intro rfl

/-- A reduction of a truck touches the Blend Unit. -/
theorem State.reduceTruckByTable_frame (s : State) (t : Truck) (b : Nat) :
    ∃ x, s.reduceTruckByTable t b = s.setBlend x := by
  unfold State.reduceTruckByTable
  split
  · exact ⟨s.blend, rfl⟩
  · exact ⟨_, rfl⟩

/-- A re-derivation of AT_t touches the table and the Blend Unit. -/
theorem State.rederiveAir_frame (s : State) (t : Truck) (e : Entry) :
    ∃ r b, s.rederiveAir t e = (s.setRes r).setBlend b := by
  unfold State.rederiveAir
  dsimp only
  split
  · exact resBlend_intro rfl
  · split
    · split
      · rename_i x _ _
        obtain ⟨b, h⟩ := (s.setAir t { e with state := e.derive }).reduceTruckByTable_frame t x
        exact ⟨_, b, h⟩
      · exact resBlend_intro rfl
    · exact resBlend_intro rfl

/-- Hand-offs that each touch the table and the Blend Unit together touch no more. -/
theorem forEach_resBlend {α : Type} (xs : List α) (f : α → State → State)
    (h : ∀ x u, ∃ r b, f x u = (u.setRes r).setBlend b) (s : State) :
    ∃ r b, forEach xs f s = (s.setRes r).setBlend b := by
  refine forEach_keeps (fun u => ∃ r b, u = (s.setRes r).setBlend b) xs f ?_ s ⟨s.res, s.blend, rfl⟩
  rintro x u ⟨r, b, rfl⟩
  obtain ⟨r', b', h'⟩ := h x ((s.setRes r).setBlend b)
  exact ⟨r', b', h'⟩

/-- STAND's re-examination touches the table and the Blend Unit. -/
theorem State.refreshStand_frame (s : State) : ∃ r b, s.refreshStand = (s.setRes r).setBlend b := by
  unfold State.refreshStand
  dsimp only
  obtain ⟨r, b, h⟩ := forEach_resBlend allAxles
    (fun k u => u.rederiveElectric k { u.res.electric.get k with stand := decide (s.demand.mode = .stand) })
    (fun k u => u.rederiveElectric_frame k _) s
  rw [h]
  obtain ⟨r', b', h'⟩ := forEach_resBlend allTrucks
    (fun t u => u.rederiveAir t { u.res.air.get t with stand := decide (s.demand.mode = .stand) })
    (fun t u => u.rederiveAir_frame t _) ((s.setRes r).setBlend b)
  exact ⟨r', b', h'⟩

/-- LINK_LOSS's re-examination of one electric entry touches the table and the Blend Unit. -/
theorem State.examineElectric_frame (l : LinkId) (k : Axle) (s : State) :
    ∃ r b, s.examineElectric l k = (s.setRes r).setBlend b := by
  unfold State.examineElectric
  dsimp only
  split
  · exact s.rederiveElectric_frame k _
  · exact resBlend_intro rfl

/-- LINK_LOSS's re-examination of one air entry touches the table and the Blend Unit. -/
theorem State.examineAir_frame (l : LinkId) (t : Truck) (s : State) :
    ∃ r b, s.examineAir l t = (s.setRes r).setBlend b := by
  unfold State.examineAir
  dsimp only
  split
  · exact s.rederiveAir_frame t _
  · exact resBlend_intro rfl

/-- LINK_LOSS's re-examination touches the table and the Blend Unit. -/
theorem State.refreshLinkLoss_frame (s : State) (l : LinkId) :
    ∃ r b, s.refreshLinkLoss l = (s.setRes r).setBlend b := by
  unfold State.refreshLinkLoss
  obtain ⟨r, b, h⟩ := forEach_resBlend allAxles (State.examineElectric l)
    (fun k u => u.examineElectric_frame l k) s
  rw [h]
  obtain ⟨r', b', h'⟩ := forEach_resBlend allTrucks (State.examineAir l)
    (fun t u => u.examineAir_frame l t) ((s.setRes r).setBlend b)
  exact ⟨r', b', h'⟩

/-- LOCKOUT's re-examination touches the table, the Blend Unit and BRK_FAULT. -/
theorem State.refreshLockout_frame (s : State) (k : Axle) :
    ∃ r b x, s.refreshLockout k = ((s.setRes r).setBlend b).setBrkFault x := by
  unfold State.refreshLockout
  dsimp only
  obtain ⟨r, b, h⟩ := s.rederiveElectric_frame k
    { s.res.electric.get k with lockout := s.lockedOut k }
  rw [h]
  obtain ⟨r', b', h'⟩ := ((s.setRes r).setBlend b).rederiveAir_frame (truckOf k)
    { r.air.get (truckOf k) with lockout := ((s.setRes r).setBlend b).truckLockedOut (truckOf k) }
  exact ⟨r', b', _, congrArg State.examineBrake h'⟩

/-- An accepted write of an electric field touches the table and the Blend Unit. -/
theorem State.writeElectric_frame (s : State) (k : Axle) (f : Field) (v : Nat) :
    ∃ r b, s.writeElectric k f v = (s.setRes r).setBlend b := by
  unfold State.writeElectric
  dsimp only
  split
  · exact resBlend_intro rfl
  · cases f <;> dsimp only
    · exact s.rederiveElectric_frame k _
    · split
      · exact resBlend_intro rfl
      · exact resBlend_intro rfl
    · split
      · exact resBlend_intro rfl
      · exact resBlend_intro rfl
    · exact resBlend_intro rfl
    · exact s.rederiveElectric_frame k _
    · exact s.rederiveElectric_frame k _
    · exact s.rederiveElectric_frame k _
    · exact resBlend_intro rfl

/-- An accepted write of an air field touches the table and the Blend Unit. -/
theorem State.writeAir_frame (s : State) (t : Truck) (f : Field) (v : Nat) :
    ∃ r b, s.writeAir t f v = (s.setRes r).setBlend b := by
  unfold State.writeAir
  dsimp only
  split
  · exact resBlend_intro rfl
  · cases f <;> dsimp only
    · exact s.rederiveAir_frame t _
    · split
      · rename_i x _
        obtain ⟨b, h⟩ := (s.setAir t ((s.res.air.get t).write .ceiling v)).reduceTruckByTable_frame t
          ((s.setAir t ((s.res.air.get t).write .ceiling v)).airBound t)
        exact ⟨_, b, h⟩
      · exact resBlend_intro rfl
    · exact resBlend_intro rfl
    · exact resBlend_intro rfl
    · exact s.rederiveAir_frame t _
    · exact s.rederiveAir_frame t _
    · exact s.rederiveAir_frame t _
    · exact resBlend_intro rfl

/-! The Demand Unit -/

/-- A re-evaluation of the mode touches the Demand Unit, the table and the Blend Unit. -/
theorem State.evaluateMode_frame (s : State) :
    ∃ d r b, s.evaluateMode = ((s.setDemand d).setRes r).setBlend b := by
  unfold State.evaluateMode
  dsimp only
  split
  · obtain ⟨r, b, h⟩ := (s.setDemand { s.demand with mode := s.evaluatedMode }).refreshStand_frame
    exact ⟨_, r, b, h⟩
  · exact demandResBlend_intro rfl

/-- A changed source of demand touches the same. -/
theorem State.demandChanged_frame (s : State) :
    ∃ d r b, s.demandChanged = ((s.setDemand d).setRes r).setBlend b := by
  obtain ⟨d, r, b, h⟩ := s.recomputeDemand.evaluateMode_frame
  exact ⟨d, r, b, h⟩

/-- An inform of the Demand Unit touches the same. -/
theorem State.informDemand_frame (s : State) :
    ∃ d r b, s.informDemand = ((s.setDemand d).setRes r).setBlend b := by
  unfold State.informDemand
  obtain ⟨d, r, b, h⟩ := (s.setDemand
    { s.demand with
      db := s.posted.db.demandValue
      auto := s.posted.auto.demandValue
      ind := .ofFn s.posted.indepFloor }).demandChanged_frame
  exact ⟨d, r, b, h⟩

/-- What the Posted Value Table hands on touches the same. -/
theorem State.handPosted_frame (s : State) (old : Posted) :
    ∃ d r b, s.handPosted old = ((s.setDemand d).setRes r).setBlend b := by
  unfold State.handPosted
  dsimp only
  obtain ⟨r, b, h⟩ := forEach_resBlend allAxles
    (fun k u =>
      if s.posted.availability k < old.availability k then
        u.reduceAxle k (s.posted.availability k) .avail
      else u)
    (fun k u => by
      split
      · exact ⟨u.res, _, rfl⟩
      · exact ⟨u.res, u.blend, rfl⟩) s
  rw [h]
  split
  · exact ⟨s.demand, r, b, rfl⟩
  · obtain ⟨d, r', b', h'⟩ := ((s.setRes r).setBlend b).informDemand_frame
    exact ⟨d, r', b', h'⟩

/-- The Demand Unit's part of a link's loss touches the same and BRK_FAULT. -/
theorem State.demandLinkLost_frame (s : State) (l : LinkId) :
    ∃ d r b x, s.demandLinkLost l = (((s.setDemand d).setRes r).setBlend b).setBrkFault x := by
  unfold State.demandLinkLost
  dsimp only
  obtain ⟨d, r, b, h⟩ := (s.setMaint (s.demand.maint.put l false)).evaluateMode_frame
  rw [h]
  cases l
  · exact ⟨d, r, b, _, rfl⟩
  · exact ⟨d, r, b, _, rfl⟩
  · exact ⟨d, r, b, s.brkFault, rfl⟩

/-! The Posted Value Table -/

/-- The table's part of a link's loss touches it, the Demand Unit, the resource table and the Blend
Unit. -/
theorem State.postedLinkLost_frame (s : State) (l : LinkId) :
    ∃ p d r b, s.postedLinkLost l = (((s.setPosted p).setDemand d).setRes r).setBlend b := by
  obtain ⟨d, r, b, h⟩ := (s.setPosted (s.posted.dropOwned l)).handPosted_frame s.posted
  exact ⟨_, d, r, b, h⟩

/-- A hold expiry touches the same. -/
theorem State.holdExpiry_frame (s : State) (i : Item) :
    ∃ p d r b, s.holdExpiry i = (((s.setPosted p).setDemand d).setRes r).setBlend b := by
  unfold State.holdExpiry
  split
  · obtain ⟨d, r, b, h⟩ := (s.setPosted (s.posted.set i (s.posted.get i).cleared)).handPosted_frame s.posted
    exact ⟨_, d, r, b, h⟩
  · exact ⟨s.posted, s.demand, s.res, s.blend, rfl⟩

/-- A good-hold expiry touches the same. -/
theorem State.goodHoldExpiry_frame (s : State) (i : Item) :
    ∃ p d r b, s.goodHoldExpiry i = (((s.setPosted p).setDemand d).setRes r).setBlend b := by
  unfold State.goodHoldExpiry
  split
  · obtain ⟨d, r, b, h⟩ := (s.setPosted
      (s.posted.set i { s.posted.get i with goodHold := none })).handPosted_frame s.posted
    exact ⟨_, d, r, b, h⟩
  · exact ⟨s.posted, s.demand, s.res, s.blend, rfl⟩

/-- A fresh expiry touches the table, the flags and the triggers on their way. -/
theorem State.freshExpiry_frame (s : State) (i : Item) :
    ∃ p e t, s.freshExpiry i = ((s.setPosted p).setExc e).setSent t := by
  unfold State.freshExpiry
  dsimp only
  split
  · obtain ⟨e, t, h⟩ := (s.setPosted
      (s.posted.set i { s.posted.get i with cls := .stale, fresh := none })).occur_frame .stale (itemCode i)
    exact ⟨_, e, t, h⟩
  · exact ⟨s.posted, s.exc, s.sent, rfl⟩

/-- The first of the occurrences of one kind touches what an occurrence does. -/
theorem State.occurFirst_frame (s : State) (k : ExcKind) (ds : List Delivery) :
    ∃ e t, s.occurFirst k ds = (s.setExc e).setSent t := by
  cases ds with
  | nil => exact ⟨s.exc, s.sent, rfl⟩
  | cons d _ => exact s.occur_frame k _

/-- A posting touches the table, the counters, the flags, the triggers on their way and what the table
hands on to. -/
theorem State.post_frame (s : State) (r : Req) (items : List Item) :
    ∃ c e t d rs b, s.post r items =
      ((((((s.setPosted (s.posted.receive (deliveries s r items))).setCounters c).setExc e).setSent t).setDemand
        d).setRes rs).setBlend b := by
  unfold State.post
  dsimp only
  obtain ⟨c, h⟩ := State.countMany_frame 19 ((deliveries s r items).filter Delivery.saturated).length
    (s.setPosted (s.posted.receive (deliveries s r items)))
  rw [h]
  obtain ⟨e, t, h⟩ := ((s.setPosted (s.posted.receive (deliveries s r items))).setCounters c).occurFirst_frame
    .clamped ((deliveries s r items).filter Delivery.clampedNow)
  rw [h]
  obtain ⟨e', t', h⟩ := ((((s.setPosted (s.posted.receive (deliveries s r items))).setCounters c).setExc
    e).setSent t).occurFirst_frame .fault ((deliveries s r items).filter Delivery.faultNow)
  rw [h]
  obtain ⟨d, rs, b, h⟩ := State.handPosted_frame (((((((s.setPosted (s.posted.receive
    (deliveries s r items))).setCounters c).setExc e).setSent t).setExc e').setSent t')) s.posted
  exact ⟨c, e', t', d, rs, b, h⟩

/-! The Link Interfaces -/

/-- A Link Interface's report touches the table, the Blend Unit and BRK_FAULT. -/
theorem State.reportLink_frame (s : State) (l : LinkId) :
    ∃ r b y, s.reportLink l = ((s.setRes r).setBlend b).setBrkFault y := by
  unfold State.reportLink
  dsimp only
  obtain ⟨r, b, h⟩ := s.refreshLinkLoss_frame l
  rw [h]
  cases l
  · exact ⟨r, b, _, rfl⟩
  · exact ⟨r, b, _, rfl⟩
  · exact ⟨r, b, s.brkFault, rfl⟩

/-- The Link Interface of a passing frame's link once it has arrived, before its request is taken. -/
def State.portAfterPass (s : State) (l : LinkId) : LinkPort :=
  (s.port l).ended.pass (s.startTimer (s.linkRun l))

/-- The change of state that a passing frame brings touches its own link, the table, the Blend Unit and
BRK_FAULT (R175). -/
theorem State.arrive_frame (s : State) (l : LinkId) :
    ∃ r b y, s.arrive l = (((s.setPort l (s.portAfterPass l)).setRes r).setBlend b).setBrkFault y := by
  have hp : (s.setPort l (s.port l).ended).setPort l
      (((s.setPort l (s.port l).ended).port l).pass
        ((s.setPort l (s.port l).ended).startTimer ((s.setPort l (s.port l).ended).linkRun l)))
      = s.setPort l (s.portAfterPass l) := by
    simp [State.setPort, State.setLinks, State.portAfterPass, State.port, State.startTimer, State.now,
      State.linkRun]
  unfold State.arrive State.linkPass
  dsimp only
  rw [hp]
  split
  · exact ⟨s.res, s.blend, s.brkFault, rfl⟩
  · exact State.reportLink_frame _ l

/-- A passing frame leaves no link DOWN (R175). -/
theorem LinkPort.pass_up (x : LinkPort) (t : Option Timer) : (x.pass t).state ≠ .down := by
  unfold LinkPort.pass
  cases hx : x.state <;> simp
  split <;> simp

/-- A link is JOINING or UP once a passing frame has arrived (R175). -/
theorem State.arrive_up (s : State) (l : LinkId) : ((s.arrive l).port l).state ≠ .down := by
  obtain ⟨r, b, y, h⟩ := s.arrive_frame l
  rw [h]
  simpa [State.port, State.setPort, State.setLinks, State.setRes, State.setBlend, State.setBrkFault,
    State.portAfterPass]
    using LinkPort.pass_up (s.port l).ended (s.startTimer (s.linkRun l))

/-- What a request comes to while its frames are taken: the checks, its own rule, and its response. -/
theorem State.serve_eq (s : State) (kind : Byte) (r : Req) (body : State → Answer)
    (h : s.Serving r.link) :
    s.serve kind r body = ((s.arrive r.link).take kind r body).conclude kind r := by
  simp [State.serve, State.inService, State.ignoring, h.1, h.2]

/-- An answered request whose own rule leaves its link up has its response pending. -/
theorem Answer.conclude_some (t : State) (kind : Byte) (r : Req) (st : Status) (w : Words)
    (h : (t.port r.link).state ≠ .down) :
    Answer.conclude ⟨t, some (st, w)⟩ kind r = t.answered kind r st w := by
  simp only [Answer.conclude, State.respond, State.answered]
  cases hs : (t.port r.link).state <;> simp_all

/-- A request that is taken is carried out by its own rule in the state that the arrival gives. -/
theorem State.serve_takes (s u : State) (kind : Byte) (r : Req) (body : State → Answer)
    (h : s.Takes kind r u) : s.serve kind r body = (body u).conclude kind r := by
  obtain ⟨hs, ha, rfl, hp⟩ := h
  rw [s.serve_eq kind r body hs]
  simp only [State.take, ha]
  cases hk : isPosting kind <;> simp [hk] at hp ⊢
  simp [hp]

end Sys2Proof.Machine
end

