-- ==== Sys2Proof/Laws/Resources.lean ====
section
/-! SUPPORT. What the operations of the Effort Resource Table leave in every entry, and that the reductions
they send are cuts. -/

namespace Sys2Proof.Machine

/-- The entry that a re-derivation puts in place (R49). -/
def Entry.rederived (e : Entry) : Entry := { e with state := e.derive }

/-- The table after a re-derivation of EA_k. -/
theorem State.rederiveElectric_res (s : State) (k : Axle) (e : Entry) :
    (s.rederiveElectric k e).res = { s.res with electric := s.res.electric.set k e.rederived } := by
  unfold State.rederiveElectric
  dsimp only
  split
  · rfl
  · split
    · split <;> rfl
    · rfl

/-- A re-derivation of EA_k cuts at most. -/
theorem State.rederiveElectric_onlyCut (s : State) (k : Axle) (e : Entry) :
    OnlyCut s.blend (s.rederiveElectric k e).blend := by
  unfold State.rederiveElectric
  dsimp only
  split
  · exact OnlyCut.refl _
  · split
    · split
      · exact (s.setElectric k { e with state := e.derive }).reduceAxle_onlyCut k _ _
      · exact OnlyCut.refl _
    · exact OnlyCut.refl _

/-- A reduction by the resource table leaves the table. -/
@[simp] theorem State.reduceTruckByTable_res (s : State) (t : Truck) (b : Nat) :
    (s.reduceTruckByTable t b).res = s.res := by
  obtain ⟨x, h⟩ := s.reduceTruckByTable_frame t b
  rw [h]; rfl

/-- The table after a re-derivation of AT_t. -/
theorem State.rederiveAir_res (s : State) (t : Truck) (e : Entry) :
    (s.rederiveAir t e).res = { s.res with air := s.res.air.set t e.rederived } := by
  unfold State.rederiveAir
  dsimp only
  split
  · rfl
  · split
    · split
      · rw [State.reduceTruckByTable_res]; rfl
      · rfl
    · rfl

/-- A re-derivation of AT_t cuts at most. -/
theorem State.rederiveAir_onlyCut (s : State) (t : Truck) (e : Entry) :
    OnlyCut s.blend (s.rederiveAir t e).blend := by
  unfold State.rederiveAir
  dsimp only
  split
  · exact OnlyCut.refl _
  · split
    · split
      · exact (s.setAir t { e with state := e.derive }).reduceTruckByTable_onlyCut t _
      · exact OnlyCut.refl _
    · exact OnlyCut.refl _

/-- Hand-offs of which one alone changes a figure leave the figure as that one makes it. -/
theorem forEach_once {α β : Type} (xs : List α) (hx : xs.Nodup) (k : α) (hk : k ∈ xs)
    (f : α → State → State) (get : State → β) (R : State → Prop) (s : State) (v : β)
    (hR : ∀ j u, R u → R (f j u)) (other : ∀ j u, j ≠ k → R u → get (f j u) = get u)
    (one : ∀ u, R u → get u = get s → get (f k u) = v) (hs : R s) : get (forEach xs f s) = v := by
  have after : ∀ (ys : List α) (u : State), k ∉ ys → R u → get u = v →
      get (ys.foldl (fun t x => f x t) u) = v := by
    intro ys
    induction ys with
    | nil => intro u _ _ h; exact h
    | cons y ys ih =>
      intro u hy hu h
      simp only [List.mem_cons, not_or] at hy
      exact ih _ hy.2 (hR y u hu) ((other y u (Ne.symm hy.1) hu).trans h)
  have before : ∀ (ys : List α) (u : State), ys.Nodup → k ∈ ys → R u → get u = get s →
      get (ys.foldl (fun t x => f x t) u) = v := by
    intro ys
    induction ys with
    | nil => intro u _ h; simp at h
    | cons y ys ih =>
      intro u hn hm hu h
      rw [List.nodup_cons] at hn
      by_cases hy : y = k
      · subst hy
        exact after ys _ hn.1 (hR _ u hu) (one u hu h)
      · have hm' : k ∈ ys := by
          rcases List.mem_cons.mp hm with h' | h'
          · exact absurd h'.symm hy
          · exact h'
        exact ih _ hn.2 hm' (hR y u hu) ((other y u hy hu).trans h)
  exact before xs s hx hk hs rfl

/-- Every axle is in the list of all axles. -/
theorem mem_allAxles (k : Axle) : k ∈ allAxles := by cases k <;> decide

/-- Every truck is in the list of all trucks. -/
theorem mem_allTrucks (t : Truck) : t ∈ allTrucks := by cases t <;> decide

/-- Hand-offs to the axles that each leave the air entries leave them. -/
theorem forEach_keeps_air (xs : List Axle) (f : Axle → State → State)
    (h : ∀ k u, (f k u).res.air = u.res.air) (s : State) : (forEach xs f s).res.air = s.res.air :=
  forEach_keeps (fun u => u.res.air = s.res.air) xs f (fun k u hu => (h k u).trans hu) s rfl

/-- Hand-offs to the trucks that each leave the electric entries leave them. -/
theorem forEach_keeps_electric (xs : List Truck) (f : Truck → State → State)
    (h : ∀ t u, (f t u).res.electric = u.res.electric) (s : State) :
    (forEach xs f s).res.electric = s.res.electric :=
  forEach_keeps (fun u => u.res.electric = s.res.electric) xs f (fun t u hu => (h t u).trans hu) s rfl

/-- The entries after STAND's re-examination (R46, R49). -/
theorem State.refreshStand_entries (s : State) :
    (∀ k, s.refreshStand.res.electric.get k =
      (s.res.electric.get k).withStand (decide (s.demand.mode = .stand))) ∧
    ∀ t, s.refreshStand.res.air.get t =
      (s.res.air.get t).withStand (decide (s.demand.mode = .stand)) := by
  unfold State.refreshStand
  dsimp only
  refine ⟨fun k => ?_, fun t => ?_⟩
  · rw [forEach_keeps_electric _ _ fun t u => by rw [State.rederiveAir_res]]
    refine forEach_once _ (by decide) k (mem_allAxles k) _ (fun u => u.res.electric.get k)
      (fun _ => True) s _ (fun _ _ _ => trivial) (fun j u hj _ => ?_) (fun u _ hu => ?_) trivial
    · rw [State.rederiveElectric_res]; simp [Ne.symm hj]
    · rw [State.rederiveElectric_res]; simp only [PerAxle.get_set_self]; rw [hu]; rfl
  · refine forEach_once _ (by decide) t (mem_allTrucks t) _ (fun u => u.res.air.get t)
      (fun u => u.res.air.get t = s.res.air.get t ∨ True) _ _ (fun _ _ _ => .inr trivial)
      (fun j u hj _ => ?_) (fun u _ hu => ?_) (.inr trivial)
    · rw [State.rederiveAir_res]; simp [Ne.symm hj]
    · rw [State.rederiveAir_res]; simp only [PerTruck.get_set_self]
      rw [hu, forEach_keeps_air _ _ fun k u => by rw [State.rederiveElectric_res]]; rfl

/-- Hand-offs that cut at most cut at most together. -/
theorem forEach_onlyCut {α : Type} (xs : List α) (f : α → State → State)
    (h : ∀ x u, OnlyCut u.blend (f x u).blend) (s : State) : OnlyCut s.blend (forEach xs f s).blend :=
  forEach_keeps (fun u => OnlyCut s.blend u.blend) xs f (fun x u hu => hu.trans (h x u)) s
    (OnlyCut.refl _)

/-- STAND's re-examination cuts at most. -/
theorem State.refreshStand_onlyCut (s : State) : OnlyCut s.blend s.refreshStand.blend := by
  unfold State.refreshStand
  exact (forEach_onlyCut _ _ (fun k u => u.rederiveElectric_onlyCut k _) s).trans
    (forEach_onlyCut _ _ (fun t u => u.rederiveAir_onlyCut t _) _)

/-- An entry after LINK_LOSS's re-examination for link `l` (R47, R49). -/
def Entry.withLinkLoss (e : Entry) (s : State) (l : LinkId) : Entry :=
  if e.members.has l then ({ e with linkLoss := s.lossAmong e.members } : Entry).rederived else e

/-- What LINK_LOSS's re-examination of EA_k leaves in EA_k. -/
theorem State.examineElectric_self (l : LinkId) (k : Axle) (s : State) :
    (s.examineElectric l k).res.electric.get k = (s.res.electric.get k).withLinkLoss s l := by
  unfold State.examineElectric Entry.withLinkLoss
  dsimp only
  split
  · rw [State.rederiveElectric_res]; simp
  · rfl

/-- LINK_LOSS's re-examination of EA_k leaves the other entries. -/
theorem State.examineElectric_other (l : LinkId) (k : Axle) (s : State) :
    (∀ j, j ≠ k → (s.examineElectric l k).res.electric.get j = s.res.electric.get j) ∧
    (s.examineElectric l k).res.air = s.res.air := by
  unfold State.examineElectric
  dsimp only
  split
  · rw [State.rederiveElectric_res]; exact ⟨fun j hj => by simp [hj], rfl⟩
  · exact ⟨fun _ _ => rfl, rfl⟩

/-- What LINK_LOSS's re-examination of AT_t leaves in AT_t. -/
theorem State.examineAir_self (l : LinkId) (t : Truck) (s : State) :
    (s.examineAir l t).res.air.get t = (s.res.air.get t).withLinkLoss s l := by
  unfold State.examineAir Entry.withLinkLoss
  dsimp only
  split
  · rw [State.rederiveAir_res]; simp
  · rfl

/-- LINK_LOSS's re-examination of AT_t leaves the other entries. -/
theorem State.examineAir_other (l : LinkId) (t : Truck) (s : State) :
    (∀ j, j ≠ t → (s.examineAir l t).res.air.get j = s.res.air.get j) ∧
    (s.examineAir l t).res.electric = s.res.electric := by
  unfold State.examineAir
  dsimp only
  split
  · rw [State.rederiveAir_res]; exact ⟨fun j hj => by simp [hj], rfl⟩
  · exact ⟨fun _ _ => rfl, rfl⟩

/-- LINK_LOSS is read from the link states alone. -/
theorem Entry.withLinkLoss_links (e : Entry) (s u : State) (l : LinkId) (h : u.links = s.links) :
    e.withLinkLoss u l = e.withLinkLoss s l := by
  simp [Entry.withLinkLoss, State.lossAmong, h]

/-- The entries after LINK_LOSS's re-examination (R47, R49). -/
theorem State.refreshLinkLoss_entries (s : State) (l : LinkId) :
    (∀ k, (s.refreshLinkLoss l).res.electric.get k = (s.res.electric.get k).withLinkLoss s l) ∧
    ∀ t, (s.refreshLinkLoss l).res.air.get t = (s.res.air.get t).withLinkLoss s l := by
  unfold State.refreshLinkLoss
  have hE : ∀ (k : Axle) (u : State), (u.examineElectric l k).links = u.links := fun k u => by
    obtain ⟨r, b, h⟩ := u.examineElectric_frame l k; rw [h]; rfl
  have hA : ∀ (t : Truck) (u : State), (u.examineAir l t).links = u.links := fun t u => by
    obtain ⟨r, b, h⟩ := u.examineAir_frame l t; rw [h]; rfl
  refine ⟨fun k => ?_, fun t => ?_⟩
  · rw [forEach_keeps_electric _ _ fun t u => (u.examineAir_other l t).2]
    exact forEach_once _ (by decide) k (mem_allAxles k) _ (fun u => u.res.electric.get k)
      (fun u => u.links = s.links) s _ (fun j u hu => (hE j u).trans hu)
      (fun j u hj _ => (u.examineElectric_other l j).1 k (Ne.symm hj))
      (fun u hu h => by
        rw [u.examineElectric_self l k, Entry.withLinkLoss_links _ s u l hu]
        exact congrArg (fun e => e.withLinkLoss s l) h) rfl
  · have hs : (forEach allAxles (State.examineElectric l) s).links = s.links :=
      forEach_keeps (fun u => u.links = s.links) _ _ (fun j u hu => (hE j u).trans hu) s rfl
    have ha := forEach_keeps_air allAxles (State.examineElectric l)
      (fun k u => (u.examineElectric_other l k).2) s
    refine forEach_once _ (by decide) t (mem_allTrucks t) _ (fun u => u.res.air.get t)
      (fun u => u.links = s.links) _ _ (fun j u hu => (hA j u).trans hu)
      (fun j u hj _ => (u.examineAir_other l j).1 t (Ne.symm hj))
      (fun u hu h => ?_) hs
    rw [ha] at h
    rw [u.examineAir_self l t, Entry.withLinkLoss_links _ s u l hu]
    exact congrArg (fun e => e.withLinkLoss s l) h

/-- LINK_LOSS's re-examination cuts at most. -/
theorem State.refreshLinkLoss_onlyCut (s : State) (l : LinkId) :
    OnlyCut s.blend (s.refreshLinkLoss l).blend := by
  unfold State.refreshLinkLoss
  refine (forEach_onlyCut _ _ (fun k u => ?_) s).trans (forEach_onlyCut _ _ (fun t u => ?_) _)
  · unfold State.examineElectric
    dsimp only; split
    · exact u.rederiveElectric_onlyCut k _
    · exact OnlyCut.refl _
  · unfold State.examineAir
    dsimp only; split
    · exact u.rederiveAir_onlyCut t _
    · exact OnlyCut.refl _

end Sys2Proof.Machine
end

