-- ==== Sys2Proof/Laws/Cuts.lean ====
section
/-! SUPPORT. The cuts that changes of the Effort Resource Table call for: each re-derivation adds exactly the
cut of its own entry, and what the re-examinations of STAND, LINK_LOSS and LOCKOUT can do. -/

namespace Sys2Proof.Machine

/-- One element more passes a filter. -/
theorem filter_length_flip {α : Type} (p q : α → Bool) (k : α) (hp : p k = false) (hq : q k = true)
    (h : ∀ j, j ≠ k → p j = q j) : ∀ xs : List α, xs.Nodup → k ∈ xs →
      (xs.filter q).length = (xs.filter p).length + 1 := by
  intro xs
  induction xs with
  | nil => intro _ hk; simp at hk
  | cons x xs ih =>
    intro hn hk
    obtain ⟨hx, hn⟩ := List.nodup_cons.mp hn
    by_cases e : x = k
    · subst e
      have : xs.filter q = xs.filter p :=
        List.filter_congr fun j hj => (h j (by rintro rfl; exact hx hj)).symm
      simp [hp, hq, this]
    · have hk' : k ∈ xs := by
        rcases List.mem_cons.mp hk with h' | h'
        · exact absurd h'.symm e
        · exact h'
      simp only [List.filter_cons, ← h x e]
      split <;> simp [ih hn hk']

/-- `u` is `b` but for the Effort Resource Table and exactly the cuts that its changes call for. -/
structure CutFrom (b u : State) : Prop where
  cuts : TableCuts b u
  same : u = (b.setRes u.res).setBlend u.blend

/-- An entry that stands calls for no cut. -/
theorem State.axleCutTo_same (b : State) (k : Axle) : b.axleCutTo k (b.res.electric.get k) = none := by
  simp [State.axleCutTo, electricChangeBound]

/-- An entry that stands calls for no cut. -/
theorem State.truckCutTo_same (b : State) (y : Truck) : b.truckCutTo y (b.res.air.get y) = none := by
  simp [State.truckCutTo, airChangeBound]

/-- Nothing changed, nothing cut. -/
theorem CutFrom.refl (b : State) : CutFrom b b := by
  refine ⟨⟨fun k => ?_, fun y => ?_, ?_, rfl⟩, rfl⟩
  · rw [b.axleCutTo_same k]
  · rw [b.truckCutTo_same y]
  · simp only [State.axleCutTo_same, State.truckCutTo_same]
    simp

/-- Table and cuts so far, with one electric entry and its axle's cut added. -/
theorem CutFrom.electric_of {b u : State} (h : CutFrom b u) (k : Axle) (e : Entry)
    (hk : u.res.electric.get k = b.res.electric.get k) (r : Alloc)
    (hr : r = match b.axleCutTo k e with
      | some x => { u.blend.record with
          revision := oneMore u.blend.record.revision
          axles := u.blend.record.axles.set k ⟨x, x, false, .state⟩ }
      | none => u.blend.record) :
    CutFrom b ((u.setElectric k e).setRecord r) := by
  obtain ⟨⟨ha, ht, hv, hs⟩, hu⟩ := h
  have hax : u.blend.record.axles.get k = b.blend.record.axles.get k := by
    have := ha k
    rw [hk, b.axleCutTo_same k] at this
    exact this
  refine ⟨⟨fun j => ?_, fun y => ?_, ?_, ?_⟩, ?_⟩
  · by_cases hj : j = k
    · subst hj
      simp only [State.setRecord, State.setElectric, State.setRes, State.setBlend, PerAxle.get_set_self, hr]
      cases b.axleCutTo j e <;> simp [hax]
    · have := ha j
      simp only [State.setRecord, State.setElectric, State.setRes, State.setBlend, hr]
      cases b.axleCutTo k e <;> simp [hj, this]
  · have := ht y
    simp only [State.setRecord, State.setElectric, State.setRes, State.setBlend, hr]
    cases b.axleCutTo k e <;> simp [this]
  · have hother : ∀ j, j ≠ k → (u.setElectric k e).res.electric.get j = u.res.electric.get j := by
      intro j hj; simp [State.setElectric, State.setRes, hj]
    have hself : (u.setElectric k e).res.electric.get k = e := by
      simp [State.setElectric, State.setRes]
    have hres : ((u.setElectric k e).setRecord r).res = (u.setElectric k e).res := rfl
    have hair : ((u.setElectric k e).setRecord r).res.air = u.res.air := rfl
    rw [hres]
    cases hc : b.axleCutTo k e with
    | none =>
      rw [hc] at hr
      have : (allAxles.filter fun j => (b.axleCutTo j ((u.setElectric k e).res.electric.get j)).isSome)
          = allAxles.filter fun j => (b.axleCutTo j (u.res.electric.get j)).isSome := by
        apply List.filter_congr
        intro j _
        by_cases hj : j = k
        · subst hj; rw [hself, hk, hc, b.axleCutTo_same]
        · rw [hother j hj]
      rw [this]
      simp only [State.setRecord, State.setBlend, hr]
      exact hv
    | some x =>
      rw [hc] at hr
      have := filter_length_flip (fun j => (b.axleCutTo j (u.res.electric.get j)).isSome)
        (fun j => (b.axleCutTo j ((u.setElectric k e).res.electric.get j)).isSome) k
        (by rw [hk, b.axleCutTo_same]; rfl) (by rw [hself, hc]; rfl)
        (fun j hj => by rw [hother j hj]) allAxles (by decide) (mem_allAxles k)
      rw [this]
      have hair' : (u.setElectric k e).res.air = u.res.air := rfl
      rw [hair']
      simp only [State.setRecord, State.setBlend, hr, oneMore]
      split <;> omega
  · simp only [State.setRecord, State.setElectric, State.setRes, State.setBlend, hr]
    rw [hs]
    cases b.axleCutTo k e <;> rfl
  · rw [hu]
    rfl

/-- Table and cuts so far, with one air entry and its truck's cut added. -/
theorem CutFrom.air_of {b u : State} (h : CutFrom b u) (y : Truck) (e : Entry)
    (hk : u.res.air.get y = b.res.air.get y) (r : Alloc)
    (hr : r = match b.truckCutTo y e with
      | some x => { u.blend.record with
          revision := oneMore u.blend.record.revision
          trucks := u.blend.record.trucks.set y
            { u.blend.record.trucks.get y with target := x, command := x, ramping := false } }
      | none => u.blend.record) :
    CutFrom b ((u.setAir y e).setRecord r) := by
  obtain ⟨⟨ha, ht, hv, hs⟩, hu⟩ := h
  have hax : u.blend.record.trucks.get y = b.blend.record.trucks.get y := by
    have := ht y
    rw [hk, b.truckCutTo_same y] at this
    exact this
  refine ⟨⟨fun k => ?_, fun j => ?_, ?_, ?_⟩, ?_⟩
  · have := ha k
    simp only [State.setRecord, State.setAir, State.setRes, State.setBlend, hr]
    cases b.truckCutTo y e <;> simp [this]
  · by_cases hj : j = y
    · subst hj
      simp only [State.setRecord, State.setAir, State.setRes, State.setBlend, PerTruck.get_set_self, hr]
      cases b.truckCutTo j e <;> simp [hax]
    · have := ht j
      simp only [State.setRecord, State.setAir, State.setRes, State.setBlend, hr]
      cases b.truckCutTo y e <;> simp [hj, this]
  · have hother : ∀ j, j ≠ y → (u.setAir y e).res.air.get j = u.res.air.get j := by
      intro j hj; simp [State.setAir, State.setRes, hj]
    have hself : (u.setAir y e).res.air.get y = e := by
      simp [State.setAir, State.setRes]
    have hres : ((u.setAir y e).setRecord r).res = (u.setAir y e).res := rfl
    have hel : (u.setAir y e).res.electric = u.res.electric := rfl
    rw [hres, hel]
    cases hc : b.truckCutTo y e with
    | none =>
      rw [hc] at hr
      have : (allTrucks.filter fun j => (b.truckCutTo j ((u.setAir y e).res.air.get j)).isSome)
          = allTrucks.filter fun j => (b.truckCutTo j (u.res.air.get j)).isSome := by
        apply List.filter_congr
        intro j _
        by_cases hj : j = y
        · subst hj; rw [hself, hk, hc, b.truckCutTo_same]
        · rw [hother j hj]
      rw [this]
      simp only [State.setRecord, State.setBlend, hr]
      exact hv
    | some x =>
      rw [hc] at hr
      have := filter_length_flip (fun j => (b.truckCutTo j (u.res.air.get j)).isSome)
        (fun j => (b.truckCutTo j ((u.setAir y e).res.air.get j)).isSome) y
        (by rw [hk, b.truckCutTo_same]; rfl) (by rw [hself, hc]; rfl)
        (fun j hj => by rw [hother j hj]) allTrucks (by decide) (mem_allTrucks y)
      rw [this]
      simp only [State.setRecord, State.setBlend, hr, oneMore]
      split <;> omega
  · simp only [State.setRecord, State.setAir, State.setRes, State.setBlend, hr]
    rw [hs]
    cases b.truckCutTo y e <;> rfl
  · rw [hu]
    rfl

/-- A re-derivation of EA_k adds its entry and exactly the cut that it calls for (R49, R50, R79). -/
theorem CutFrom.electric {b u : State} (h : CutFrom b u) (k : Axle) (e : Entry)
    (hk : u.res.electric.get k = b.res.electric.get k) (he : e.state = (b.res.electric.get k).state) :
    CutFrom b (u.rederiveElectric k e) := by
  have hax : u.blend.record.axles.get k = b.blend.record.axles.get k := by
    have := h.cuts.axles k
    rw [hk, b.axleCutTo_same k] at this
    exact this
  have hcmd : (b.blend.record.axles.get k).command = b.command k := rfl
  have key : ∀ c : Option Nat, electricChangeBound (b.res.electric.get k) e.rederived = c →
      u.rederiveElectric k e = (u.setElectric k e.rederived).setRecord (match c with
        | some x => if x < b.command k then u.blend.record.reduceAxle k x .state else u.blend.record
        | none => u.blend.record) := by
    intro c hc
    unfold electricChangeBound at hc
    rw [← he, show e.rederived.state = e.derive from rfl] at hc
    unfold State.rederiveElectric
    dsimp only
    by_cases hst : e.derive = e.state
    · rw [if_pos hst]
      rw [if_pos hst] at hc
      subst hc
      rfl
    · rw [if_neg hst]
      rw [if_neg hst] at hc
      have hb : electricBound { e with state := e.derive } = c := by
        rw [← hc]; rfl
      rw [hb]
      cases c with
      | none => rfl
      | some x =>
        have : u.command k = b.command k := congrArg AxleAlloc.command hax
        show (if x < u.command k then _ else _) = _
        rw [this]
        dsimp only
        split <;> rfl
  rw [key _ rfl]
  refine h.electric_of k e.rederived hk _ ?_
  unfold State.axleCutTo
  cases hc : electricChangeBound (b.res.electric.get k) e.rederived with
  | none => rfl
  | some x =>
    by_cases h1 : x < b.command k
    · by_cases h2 : x < (b.blend.record.axles.get k).target
      · have h3 : min (b.command k) x = x := by omega
        simp [Option.filter, h1, h2, Alloc.reduceAxle, hax, AxleAlloc.cut, Alloc.bump, oneMore, hcmd, h3]
      · simp [Option.filter, h1, h2, Alloc.reduceAxle, hax]
    · simp [Option.filter, h1]

/-- A re-derivation of AT_y adds its entry and exactly the cut that it calls for (R49, R50, R52, R80). -/
theorem CutFrom.air {b u : State} (h : CutFrom b u) (y : Truck) (e : Entry)
    (hk : u.res.air.get y = b.res.air.get y) (he : e.state = (b.res.air.get y).state) :
    CutFrom b (u.rederiveAir y e) := by
  have hax : u.blend.record.trucks.get y = b.blend.record.trucks.get y := by
    have := h.cuts.trucks y
    rw [hk, b.truckCutTo_same y] at this
    exact this
  have hcmd : (b.blend.record.trucks.get y).command = b.pressure y := rfl
  have hp : u.params = b.params := by rw [h.same]; rfl
  have hd : u.demand = b.demand := by rw [h.same]; rfl
  have key : ∀ c : Option Nat, airChangeBound b.params.pServiceMax (b.res.air.get y) e.rederived = c →
      u.rederiveAir y e = (u.setAir y e.rederived).setRecord (match c with
        | some x => if x < b.pressure y ∧ ¬(b.demand.emergency.any = true ∧ 0 < x ∧
              (b.blend.record.trucks.get y).target = b.params.pEmer) then
            u.blend.record.reduceTruck y x else u.blend.record
        | none => u.blend.record) := by
    intro c hc
    unfold airChangeBound at hc
    rw [← he, show e.rederived.state = e.derive from rfl] at hc
    unfold State.rederiveAir
    dsimp only
    by_cases hst : e.derive = e.state
    · rw [if_pos hst]
      rw [if_pos hst] at hc
      subst hc
      rfl
    · rw [if_neg hst]
      rw [if_neg hst] at hc
      have hb : airStateBound u.params.pServiceMax { e with state := e.derive } = c := by
        rw [← hc, hp]
        unfold airStateBound Entry.rederived
        dsimp only
        cases e.derive <;> rfl
      rw [hb]
      cases c with
      | none => rfl
      | some x =>
        have h1 : u.pressure y = b.pressure y := congrArg TruckAlloc.command hax
        show (if x < u.pressure y then _ else _) = _
        rw [h1]
        dsimp only
        by_cases hx : x < b.pressure y
        · rw [if_pos hx]
          unfold State.reduceTruckByTable
          have h2 : (u.setAir y { e with state := e.derive }).emergencyInForce = b.demand.emergency.any := by
            simp only [State.emergencyInForce]; exact congrArg (fun d : Demand => d.emergency.any) hd
          have h3 : ((u.setAir y { e with state := e.derive }).blend.record.trucks.get y).target
              = (b.blend.record.trucks.get y).target := congrArg TruckAlloc.target hax
          have h4 : (u.setAir y { e with state := e.derive }).params.pEmer = b.params.pEmer :=
            congrArg Params.pEmer hp
          rw [h2, h3, h4]
          by_cases hq : b.demand.emergency.any = true ∧ 0 < x ∧
              (b.blend.record.trucks.get y).target = b.params.pEmer
          · rw [if_pos hq, if_neg (fun h => h.2 hq)]; rfl
          · rw [if_neg hq, if_pos ⟨hx, hq⟩]; rfl
        · rw [if_neg hx, if_neg (fun h => hx h.1)]; rfl
  rw [key _ rfl]
  refine h.air_of y e.rederived hk _ ?_
  unfold State.truckCutTo
  cases hc : airChangeBound b.params.pServiceMax (b.res.air.get y) e.rederived with
  | none => rfl
  | some x =>
    by_cases h1 : x < b.pressure y
    · by_cases hq : b.demand.emergency.any = true ∧ 0 < x ∧
          (b.blend.record.trucks.get y).target = b.params.pEmer
      · simp [Option.filter, h1, hq]
      · have hq' : (b.demand.emergency.any && decide (0 < x) &&
            decide ((b.blend.record.trucks.get y).target = b.params.pEmer)) = false := by
          simpa [Bool.and_eq_true, and_assoc] using hq
        by_cases h2 : x < (b.blend.record.trucks.get y).target
        · have h3 : min (b.pressure y) x = x := by omega
          simp only [Option.filter, h1, h2, hq', hq, Alloc.reduceTruck, hax, TruckAlloc.cut, Alloc.bump,
            oneMore, hcmd, h3, not_false_iff, and_self, if_true, Bool.not_false, Bool.and_self, decide_true]
          simp
        · simp only [Option.filter, h1, h2, hq', hq, Alloc.reduceTruck, hax]
          simp
    · simp [Option.filter, h1]

/-- Re-derivations of several electric entries, each of which stood as in `b`. -/
theorem CutFrom.forAxles {b : State} (f : Axle → State → State)
    (hf : ∀ k u, CutFrom b u → u.res.electric.get k = b.res.electric.get k →
      CutFrom b (f k u) ∧ (∀ j, j ≠ k → (f k u).res.electric.get j = u.res.electric.get j) ∧
        (f k u).res.air = u.res.air) :
    ∀ (xs : List Axle) (u : State), xs.Nodup → CutFrom b u →
      (∀ k ∈ xs, u.res.electric.get k = b.res.electric.get k) →
      CutFrom b (forEach xs f u) ∧ (forEach xs f u).res.air = u.res.air := by
  intro xs
  induction xs with
  | nil => exact fun u _ h _ => ⟨h, rfl⟩
  | cons x xs ih =>
    intro u hn h hb
    obtain ⟨hx, hn⟩ := List.nodup_cons.mp hn
    obtain ⟨h1, h2, h3⟩ := hf x u h (hb x (by simp))
    have := ih (f x u) hn h1 fun k hk => by
      rw [h2 k (by rintro rfl; exact hx hk)]
      exact hb k (by simp [hk])
    exact ⟨this.1, this.2.trans h3⟩

/-- Re-derivations of several air entries, each of which stood as in `b`. -/
theorem CutFrom.forTrucks {b : State} (f : Truck → State → State)
    (hf : ∀ y u, CutFrom b u → u.res.air.get y = b.res.air.get y →
      CutFrom b (f y u) ∧ ∀ j, j ≠ y → (f y u).res.air.get j = u.res.air.get j) :
    ∀ (xs : List Truck) (u : State), xs.Nodup → CutFrom b u →
      (∀ y ∈ xs, u.res.air.get y = b.res.air.get y) → CutFrom b (forEach xs f u) := by
  intro xs
  induction xs with
  | nil => exact fun u _ h _ => h
  | cons x xs ih =>
    intro u hn h hb
    obtain ⟨hx, hn⟩ := List.nodup_cons.mp hn
    obtain ⟨h1, h2⟩ := hf x u h (hb x (by simp))
    exact ih (f x u) hn h1 fun k hk => by
      rw [h2 k (by rintro rfl; exact hx hk)]
      exact hb k (by simp [hk])

/-- STAND's re-examination makes exactly the cuts that the changed states call for (R46, R49, R50). -/
theorem State.refreshStand_cutFrom (s : State) : CutFrom s s.refreshStand := by
  obtain ⟨h, ha⟩ := CutFrom.forAxles (b := s)
    (fun k u => u.rederiveElectric k
      { u.res.electric.get k with stand := decide (s.demand.mode = .stand) })
    (fun k u h hk => ⟨h.electric k _ hk (by rw [hk]),
      fun j hj => by rw [State.rederiveElectric_res]; simp [hj],
      by rw [State.rederiveElectric_res]⟩) allAxles s (by decide) (CutFrom.refl s) (fun _ _ => rfl)
  exact CutFrom.forTrucks
    (fun y u => u.rederiveAir y { u.res.air.get y with stand := decide (s.demand.mode = .stand) })
    (fun y u h hk => ⟨h.air y _ hk (by rw [hk]),
      fun j hj => by rw [State.rederiveAir_res]; simp [hj]⟩) allTrucks _ (by decide) h
    (fun y _ => by rw [ha])

/-- LINK_LOSS's re-examination makes exactly the cuts that the changed states call for (R47, R49, R50). -/
theorem State.refreshLinkLoss_cutFrom (s : State) (l : LinkId) : CutFrom s (s.refreshLinkLoss l) := by
  obtain ⟨h, ha⟩ := CutFrom.forAxles (b := s) (State.examineElectric l)
    (fun k u h hk => by
      refine ⟨?_, (u.examineElectric_other l k).1, (u.examineElectric_other l k).2⟩
      unfold State.examineElectric
      dsimp only
      split
      · exact h.electric k _ hk (by rw [hk])
      · exact h) allAxles s (by decide) (CutFrom.refl s) (fun _ _ => rfl)
  exact CutFrom.forTrucks (State.examineAir l)
    (fun y u h hk => by
      refine ⟨?_, (u.examineAir_other l y).1⟩
      unfold State.examineAir
      dsimp only
      split
      · exact h.air y _ hk (by rw [hk])
      · exact h) allTrucks _ (by decide) h
    (fun y _ => by rw [ha])

/-- All that LINK_LOSS's re-examination can do (R47, R49, R50). -/
theorem State.refreshLinkLoss_felt (s : State) (l : LinkId) : LossFelt l s (s.refreshLinkLoss l) :=
  ⟨(s.refreshLinkLoss_entries l).1, (s.refreshLinkLoss_entries l).2, (s.refreshLinkLoss_cutFrom l).cuts,
    (s.refreshLinkLoss_cutFrom l).same⟩

/-- All that LOCKOUT's re-examination can do (R36, R48 to R50). -/
theorem State.refreshLockout_felt (s : State) (k : Axle) : LockoutFelt k s (s.refreshLockout k) := by
  let u := s.rederiveElectric k { s.res.electric.get k with lockout := s.lockedOut k }
  let v := u.rederiveAir (truckOf k)
    { u.res.air.get (truckOf k) with lockout := u.truckLockedOut (truckOf k) }
  have e : s.refreshLockout k = v.examineBrake := rfl
  have hu : CutFrom s u := (CutFrom.refl s).electric k _ rfl rfl
  have hr : u.res = { s.res with
      electric := s.res.electric.set k
        (Entry.rederived { s.res.electric.get k with lockout := s.lockedOut k }) } :=
    s.rederiveElectric_res k _
  have hs : u.slide = s.slide := by rw [hu.same]; rfl
  have hl : u.truckLockedOut (truckOf k) = s.truckLockedOut (truckOf k) := by
    simp only [State.truckLockedOut]
    congr 1
    funext j
    simp only [State.lockedOut, hs]
  have hv : CutFrom s v := hu.air (truckOf k) _ (by rw [hr]) (by rw [hr])
  have hw : v.res = { u.res with
      air := u.res.air.set (truckOf k)
        (Entry.rederived { u.res.air.get (truckOf k) with lockout := u.truckLockedOut (truckOf k) }) } :=
    u.rederiveAir_res (truckOf k) _
  rw [e]
  refine ⟨fun j => ?_, fun y => ?_, ⟨hv.cuts.axles, hv.cuts.trucks, hv.cuts.revision, hv.cuts.same⟩, rfl, ?_⟩
  · show v.res.electric.get j = _
    rw [hw, hr]
    by_cases hj : j = k
    · subst hj; simp [Entry.rederived]
    · simp [hj]
  · show v.res.air.get y = _
    rw [hw, hl, hr]
    by_cases hy : y = truckOf k
    · subst hy; simp [Entry.rederived]
    · simp [hy]
  · exact congrArg (fun w : State => w.setBrkFault v.brakeFaulty) hv.same
end Sys2Proof.Machine
end

