-- ==== Sys2Proof/Laws/Demand.lean ====
section
/-! SUPPORT. What a re-evaluation of the mode can do, and the loss of a link. -/

namespace Sys2Proof.Machine

/-- The figures of the other axles stand at a re-derivation of EA_j. -/
theorem State.rederiveElectric_axle_other (s : State) (j k : Axle) (e : Entry) (h : j ≠ k) :
    (s.rederiveElectric j e).blend.record.axles.get k = s.blend.record.axles.get k := by
  unfold State.rederiveElectric
  dsimp only
  split
  · rfl
  · split
    · split
      · rename_i b _ _
        rcases s.blend.record.reduceAxle_cases j b .state with ⟨_, hc⟩ | ⟨_, hc⟩ <;>
          simp [State.reduceAxle, State.setRecord, State.setElectric, State.setRes, State.setBlend, hc,
            Ne.symm h]
      · rfl
    · rfl

/-- A re-derivation that takes EA_k to OFF leaves its command 0, if the command was within the target. -/
theorem State.rederiveElectric_off (s : State) (k : Axle) (e : Entry)
    (ho : e.derive = .off) (he : e.state ≠ .off)
    (hc : s.command k ≤ (s.blend.record.axles.get k).target) :
    (s.rederiveElectric k e).command k = 0 := by
  unfold State.rederiveElectric
  dsimp only
  rw [if_neg (by rw [ho]; exact Ne.symm he)]
  simp only [electricBound, ho]
  split
  · rename_i h
    have ht : 0 < (s.blend.record.axles.get k).target := lt_of_lt_of_le h hc
    rcases s.blend.record.reduceAxle_cases k 0 .state with ⟨_, hr⟩ | ⟨hr, _⟩
    · simp [State.reduceAxle, State.setRecord, State.setElectric, State.setRes, State.setBlend,
        State.command, hr, AxleAlloc.cut]
    · omega
  · rename_i h
    have : s.command k = 0 := by simpa [State.command, State.setElectric, State.setRes] using h
    exact this

/-- The reductions of the trucks leave the figures of the axles. -/
theorem State.rederiveAir_axles (s : State) (t : Truck) (e : Entry) :
    (s.rederiveAir t e).blend.record.axles = s.blend.record.axles := by
  have key : ∀ (u : State) (b : Nat), (u.reduceTruckByTable t b).blend.record.axles
      = u.blend.record.axles := by
    intro u b
    unfold State.reduceTruckByTable
    split
    · rfl
    · rcases u.blend.record.reduceTruck_cases t b with ⟨_, hc⟩ | ⟨_, hc⟩ <;>
        simp [State.reduceTruck, State.setRecord, State.setBlend, hc, Alloc.bump]
  unfold State.rederiveAir
  dsimp only
  split
  · rfl
  · split
    · split
      · rw [key]; rfl
      · rfl
    · rfl

/-- STAND's re-examination leaves the command of an axle that it takes to OFF at 0. -/
theorem State.refreshStand_off (s : State) (k : Axle)
    (ho : (s.refreshStand.res.electric.get k).state = .off) (he : (s.res.electric.get k).state ≠ .off)
    (hc : s.command k ≤ (s.blend.record.axles.get k).target) : s.refreshStand.command k = 0 := by
  rw [s.refreshStand_entries.1 k] at ho
  unfold State.refreshStand
  have hair : ∀ u : State, (forEach allTrucks (fun t u => u.rederiveAir t
      { u.res.air.get t with stand := decide (s.demand.mode = .stand) }) u).blend.record.axles
        = u.blend.record.axles := fun u =>
    forEach_keeps (fun v => v.blend.record.axles = u.blend.record.axles) _ _
      (fun t v hv => (v.rederiveAir_axles t _).trans hv) u rfl
  have hcmd : ∀ u : State, (forEach allTrucks (fun t u => u.rederiveAir t
      { u.res.air.get t with stand := decide (s.demand.mode = .stand) }) u).command k = u.command k :=
    fun u => by simp only [State.command, hair]
  dsimp only
  rw [hcmd]
  have hk : ∀ u : State, u.blend.record.axles.get k = s.blend.record.axles.get k →
      u.res.electric.get k = s.res.electric.get k →
      ((u.rederiveElectric k
        { u.res.electric.get k with stand := decide (s.demand.mode = .stand) }).command k) = 0 := by
    intro u h₁ h₂
    refine u.rederiveElectric_off k _ ?_ ?_ ?_
    · rw [h₂]; exact ho
    · rw [h₂]; exact he
    · simpa [State.command, h₁] using hc
  have hP : ∀ (xs : List Axle) (u : State), xs.Nodup → k ∈ xs →
      u.blend.record.axles.get k = s.blend.record.axles.get k →
      u.res.electric.get k = s.res.electric.get k →
      (xs.foldl (fun t x => t.rederiveElectric x
        { t.res.electric.get x with stand := decide (s.demand.mode = .stand) }) u).command k = 0 := by
    intro xs
    induction xs with
    | nil => intro u _ h; simp at h
    | cons x xs ih =>
      intro u hn hm h₁ h₂
      rw [List.nodup_cons] at hn
      simp only [List.foldl_cons]
      by_cases hx : x = k
      · subst hx
        have h0 := hk u h₁ h₂
        have hle := forEach_onlyCut xs (fun y t => t.rederiveElectric y
          { t.res.electric.get y with stand := decide (s.demand.mode = .stand) })
          (fun y t => t.rederiveElectric_onlyCut y _) (u.rederiveElectric x
            { u.res.electric.get x with stand := decide (s.demand.mode = .stand) })
        have := (hle.axles x).2
        simp only [State.command] at h0 ⊢
        exact Nat.le_zero.mp (h0 ▸ this)
      · refine ih _ hn.2 ?_ ?_ ?_
        · rcases List.mem_cons.mp hm with h' | h'
          · exact absurd h'.symm hx
          · exact h'
        · rw [u.rederiveElectric_axle_other x k _ hx, h₁]
        · rw [State.rederiveElectric_res]; simp [Ne.symm hx, h₂]
  exact hP allAxles s (by decide) (mem_allAxles k) rfl rfl

/-- The cuts that changes call for do not depend on the mode. -/
theorem TableCuts.sameDemand {s t : State} {m : Mode}
    (h : TableCuts (s.setDemand { s.demand with mode := m }) t) : TableCuts s t :=
  ⟨h.axles, h.trucks, h.revision, h.same⟩

/-- All that a re-evaluation of the mode can do (R32, R33, R46, R49, R50). -/
theorem State.evaluateMode_settled (s : State) : ModeSettled s s.evaluateMode := by
  let u := s.setDemand { s.demand with mode := s.evaluatedMode }
  by_cases h : s.standChanges
  · have e : s.evaluateMode = u.refreshStand := by
      unfold State.evaluateMode; exact if_pos h
    obtain ⟨r, b, hf⟩ := u.refreshStand_frame
    have hd : u.refreshStand.demand = { s.demand with mode := s.evaluatedMode } := by rw [hf]; rfl
    have hen := u.refreshStand_entries
    rw [e]
    refine ⟨hd, ?_, fun hn => absurd h hn, fun _ k => ?_, fun _ t => ?_, u.refreshStand_onlyCut, u.refreshStand_cutFrom.cuts.sameDemand,
      fun k ho he hc => u.refreshStand_off k ho he hc⟩
    · rw [hd, hf]; rfl
    · rw [hen.1 k, hd]; rfl
    · rw [hen.2 t, hd]; rfl
  · have e : s.evaluateMode = u := by
      unfold State.evaluateMode; exact if_neg h
    rw [e]
    exact ⟨rfl, rfl, fun _ => ⟨rfl, rfl⟩, fun h' => absurd h' h, fun h' => absurd h' h, OnlyCut.refl _,
      (CutFrom.refl u).cuts.sameDemand,
      fun k ho he => absurd ho he⟩

end Sys2Proof.Machine
end

