-- ==== Sys2Proof/Laws/Memory.lean ====
section
/-! SUPPORT. Record Memory: a read after a write, and the canonical form that every operation keeps. -/

namespace Sys2Proof.Machine

/-- What a put leaves at every address. -/
theorem findCell_put (cs : List (Nat × MemWord)) (a b : Nat) (w : MemWord)
    (h : cs.Pairwise fun c d => c.1 < d.1) :
    findCell (putCell a w cs) b = if b = a then some w else findCell cs b := by
  induction cs with
  | nil => simp [putCell, findCell, eq_comm]
  | cons c cs ih =>
    have ih := ih h.of_cons
    simp only [putCell]
    split
    · simp [findCell, eq_comm]
    · split
      · subst_vars; simp only [findCell]; split <;> simp_all [eq_comm]
      · simp only [findCell, ih]; split <;> split <;> simp_all

/-- An address below all listed ones is unlisted. -/
theorem findCell_below (cs : List (Nat × MemWord)) (a : Nat) (h : ∀ c ∈ cs, a < c.1) :
    findCell cs a = none := by
  induction cs with
  | nil => rfl
  | cons c cs ih =>
    have := h c (by simp)
    simp only [findCell]
    rw [if_neg (by omega), ih fun d hd => h d (by simp [hd])]

/-- What a drop leaves at every address. -/
theorem findCell_drop (cs : List (Nat × MemWord)) (a b : Nat) (h : cs.Pairwise fun c d => c.1 < d.1) :
    findCell (dropCell a cs) b = if b = a then none else findCell cs b := by
  induction cs with
  | nil => simp [dropCell, findCell]
  | cons c cs ih =>
    have ih := ih h.of_cons
    have hc : ∀ d ∈ cs, c.1 < d.1 := fun d hd => List.rel_of_pairwise_cons h hd
    simp only [dropCell]
    split
    · subst_vars
      split
      · subst_vars; exact findCell_below cs _ hc
      · simp only [findCell]; rw [if_neg (by omega)]
    · simp only [findCell, ih]; split <;> split <;> simp_all

/-- A put lists nothing but the put word and what was listed. -/
theorem mem_putCell (cs : List (Nat × MemWord)) (a : Nat) (w : MemWord) (c : Nat × MemWord)
    (h : c ∈ putCell a w cs) : c = (a, w) ∨ c ∈ cs := by
  induction cs with
  | nil => simpa [putCell] using h
  | cons d cs ih =>
    simp only [putCell] at h
    split at h
    · simpa using h
    · split at h
      · rcases List.mem_cons.mp h with h | h
        · exact .inl h
        · exact .inr (List.mem_cons_of_mem _ h)
      · rcases List.mem_cons.mp h with h | h
        · exact .inr (by simp [h])
        · rcases ih h with h | h
          · exact .inl h
          · exact .inr (List.mem_cons_of_mem _ h)

/-- A put keeps the addresses rising. -/
theorem putCell_rising (cs : List (Nat × MemWord)) (a : Nat) (w : MemWord)
    (h : cs.Pairwise fun c d => c.1 < d.1) : (putCell a w cs).Pairwise fun c d => c.1 < d.1 := by
  induction cs with
  | nil => simp [putCell]
  | cons c cs ih =>
    have hc : ∀ d ∈ cs, c.1 < d.1 := fun d hd => List.rel_of_pairwise_cons h hd
    simp only [putCell]
    split
    · refine List.Pairwise.cons (fun d hd => ?_) h
      rcases List.mem_cons.mp hd with hd | hd
      · subst hd; assumption
      · have := hc d hd; simp only; omega
    · split
      · subst_vars; exact List.Pairwise.cons hc h.of_cons
      · refine List.Pairwise.cons (fun d hd => ?_) (ih h.of_cons)
        rcases mem_putCell cs a w d hd with rfl | hd
        · simp only; omega
        · exact hc d hd

/-- A drop leaves a part of the list. -/
theorem dropCell_sublist (cs : List (Nat × MemWord)) (a : Nat) : (dropCell a cs).Sublist cs := by
  induction cs with
  | nil => exact List.Sublist.refl _
  | cons c cs ih =>
    simp only [dropCell]
    split
    · exact List.sublist_cons_self c cs
    · exact ih.cons_cons c

/-- A read after a write: the written pair at its address, every other word as before. -/
theorem Memory.read_write (m : Memory) (a b : Nat) (w : MemWord) (h : m.wf) :
    (m.write a w).read b = if b = a then w else m.read b := by
  unfold Memory.write
  split
  · rename_i hw
    simp only [Memory.read, findCell_drop _ _ _ h.1]
    by_cases hb : b = a <;> simp [hb, hw]
  · simp only [Memory.read, findCell_put _ _ _ _ h.1]
    by_cases hb : b = a <;> simp [hb]

/-- A write keeps the canonical form. -/
theorem Memory.write_wf (m : Memory) (a : Nat) (w : MemWord) (h : m.wf) : (m.write a w).wf := by
  unfold Memory.write
  split
  · exact ⟨h.1.sublist (dropCell_sublist _ _), fun c hc => h.2 c ((dropCell_sublist _ _).mem hc)⟩
  · refine ⟨putCell_rising _ _ _ h.1, fun c hc => ?_⟩
    rcases mem_putCell _ _ _ _ hc with rfl | hc
    · assumption
    · exact h.2 c hc

/-- A write does not lose contents. -/
@[simp] theorem Memory.write_losses (m : Memory) (a : Nat) (w : MemWord) :
    (m.write a w).losses = m.losses := by
  unfold Memory.write; split <;> rfl

/-- The contents after a loss have the canonical form. -/
theorem Memory.lose_wf (m : Memory) : m.lose.wf := ⟨List.Pairwise.nil, by simp [Memory.lose]⟩

/-- Memory at reset has the canonical form. -/
theorem reset_mem_wf : State.reset.mem.wf := ⟨List.Pairwise.nil, by simp [State.reset]⟩

/-- A write of a word by the recorder keeps the form and touches memory alone. -/
theorem State.storeWord_wf (s : State) (a : Nat) (d : Word) (h : s.mem.wf) : (s.storeWord a d).mem.wf :=
  s.mem.write_wf a _ h

/-- Writes of words keep the form. -/
theorem State.storeWords_wf (ds : List Word) : ∀ (s : State) (a : Nat), s.mem.wf →
    (s.storeWords a ds).mem.wf := by
  induction ds with
  | nil => intro s a h; exact h
  | cons d ds ih => intro s a h; exact ih _ _ (s.storeWord_wf a d h)

/-- Writes of words touch memory alone. -/
theorem State.storeWords_frame (ds : List Word) : ∀ (s : State) (a : Nat),
    ∃ m, s.storeWords a ds = s.setMem m := by
  induction ds with
  | nil => intro s a; exact ⟨s.mem, rfl⟩
  | cons d ds ih => intro s a; obtain ⟨m, h⟩ := ih (s.storeWord a d) (a + 1); exact ⟨m, h⟩

/-- What writes of words leave at every address. -/
theorem State.storeWords_read (ds : List Word) : ∀ (s : State) (a b : Nat), s.mem.wf →
    (s.storeWords a ds).mem.read b =
      if h : a ≤ b ∧ b < a + ds.length then protect (ds[b - a]'(by omega)) else s.mem.read b := by
  induction ds with
  | nil => intro s a b _; simp [State.storeWords]
  | cons d ds ih =>
    intro s a b hw
    simp only [State.storeWords]
    rw [ih _ _ _ (s.storeWord_wf a d hw)]
    have hr : (s.storeWord a d).mem.read b = if b = a then protect d else s.mem.read b :=
      Memory.read_write _ _ _ _ hw
    rw [hr]
    by_cases h₁ : b = a
    · subst h₁; simp
    · by_cases h₂ : a + 1 ≤ b ∧ b < a + 1 + ds.length
      · rw [dif_pos h₂, dif_pos (by simp; omega)]
        congr 1
        rw [List.getElem_cons, dif_neg (by omega)]
        congr 1
      · rw [dif_neg h₂, if_neg h₁, dif_neg (by simp; omega)]

/-- A read through the check keeps the form. -/
theorem State.readWord_wf (s : State) (a : Nat) (h : s.mem.wf) : (s.readWord a).2.mem.wf := by
  simp only [State.readWord, State.afterRead]
  split
  · exact h
  · exact s.storeWord_wf a _ h
  · exact h

/-- A read through the check touches memory and counters alone. -/
theorem State.readWord_frame (s : State) (a : Nat) :
    ∃ m c, (s.readWord a).2 = (s.setMem m).setCounters c := by
  simp only [State.readWord, State.afterRead]
  split
  · exact ⟨s.mem, s.counters, rfl⟩
  · exact ⟨_, _, rfl⟩
  · exact ⟨s.mem, _, rfl⟩

/-- Reads through the check keep the form. -/
theorem State.readWords_wf (as : List Nat) : ∀ s : State, s.mem.wf → (s.readWords as).2.mem.wf := by
  induction as with
  | nil => intro s h; exact h
  | cons a as ih => intro s h; exact ih _ (s.readWord_wf a h)

/-- Reads through the check touch memory and counters alone. -/
theorem State.readWords_frame (as : List Nat) : ∀ s : State,
    ∃ m c, (s.readWords as).2 = (s.setMem m).setCounters c := by
  induction as with
  | nil => intro s; exact ⟨s.mem, s.counters, rfl⟩
  | cons a as ih =>
    intro s
    obtain ⟨m, c, h⟩ := s.readWord_frame a
    obtain ⟨m', c', h'⟩ := ih (s.readWord a).2
    refine ⟨m', c', ?_⟩
    change ((s.readWord a).2.readWords as).2 = _
    rw [h', h]; rfl

end Sys2Proof.Machine
end

