-- ==== Sys2Proof/Laws/PerInstr.lean ====
section
/-! SUPPORT. The family `FrameOf`, one lemma for each command: the frame that brings a well-formed command
is that command. -/

namespace Sys2Proof.Laws.FrameOf

open Sys2Proof.Machine

/-- The kind byte and contents of the frame that brings a well-formed command name that command again
(Table 10-4, R179 check 1); a command that no frame brings has none. -/
def Statement (i : Instr) : Prop :=
  ∀ (kind : Byte) (r : Req), requestParts i = some (kind, r) → i.wf = true → requestFrom kind r = i

/-- What an admitted kind byte that the catalogue lists names. -/
theorem requestFrom_of (kind : Byte) (r : Req) (i : Instr) (h : admits kind r.link = true)
    (hi : requestOf kind.toNat r = some i) : requestFrom kind r = i := by
  simp [requestFrom, h, hi]

/-- A listed request with the kind byte it is listed under. -/
theorem of_request (i : Instr) (kind : Byte) (r : Req) (hp : requestParts i = some (kind, r))
    (hw : i.wf = admits kind r.link) (hi : requestOf kind.toNat r = some i) : Statement i := by
  intro k q hk hwf
  obtain ⟨rfl, rfl⟩ : kind = k ∧ r = q := by simpa using hp.symm.trans hk
  exact requestFrom_of kind r i (hw ▸ hwf) hi

/-- An event has no frame. -/
theorem of_event (i : Instr) (hp : requestParts i = none) : Statement i := by
  intro k q hk
  exact absurd (hp.symm.trans hk) (by simp)

theorem nop (r : Req) : Statement (.nop r) := of_request _ _ r rfl rfl rfl

theorem postDb (r : Req) : Statement (.postDb r) := of_request _ _ r rfl rfl rfl

theorem postAvail (r : Req) : Statement (.postAvail r) := of_request _ _ r rfl rfl rfl

theorem postAchieved (r : Req) : Statement (.postAchieved r) := of_request _ _ r rfl rfl rfl

theorem postGround (r : Req) : Statement (.postGround r) := of_request _ _ r rfl rfl rfl

theorem postAuto (r : Req) : Statement (.postAuto r) := of_request _ _ r rfl rfl rfl

theorem postInd (r : Req) : Statement (.postInd r) := of_request _ _ r rfl rfl rfl

theorem postPressure (r : Req) : Statement (.postPressure r) := of_request _ _ r rfl rfl rfl

theorem penaltySet (r : Req) : Statement (.penaltySet r) := of_request _ _ r rfl rfl rfl

theorem penaltyClear (r : Req) : Statement (.penaltyClear r) := of_request _ _ r rfl rfl rfl

theorem penaltyReset (r : Req) : Statement (.penaltyReset r) := of_request _ _ r rfl rfl rfl

theorem emerSet (r : Req) : Statement (.emerSet r) := of_request _ _ r rfl rfl rfl

theorem emerClear (r : Req) : Statement (.emerClear r) := of_request _ _ r rfl rfl rfl

theorem modeReq (r : Req) : Statement (.modeReq r) := of_request _ _ r rfl rfl rfl

theorem writeRes (r : Req) : Statement (.writeRes r) := of_request _ _ r rfl rfl rfl

theorem readRes (r : Req) : Statement (.readRes r) := of_request _ _ r rfl rfl rfl

theorem readAlloc (r : Req) : Statement (.readAlloc r) := of_request _ _ r rfl rfl rfl

theorem readStatus (r : Req) : Statement (.readStatus r) := of_request _ _ r rfl rfl rfl

theorem readAxle (r : Req) : Statement (.readAxle r) := of_request _ _ r rfl rfl rfl

theorem readParam (r : Req) : Statement (.readParam r) := of_request _ _ r rfl rfl rfl

theorem writeParam (r : Req) : Statement (.writeParam r) := of_request _ _ r rfl rfl rfl

theorem setMask (r : Req) : Statement (.setMask r) := of_request _ _ r rfl rfl rfl

theorem clearExc (r : Req) : Statement (.clearExc r) := of_request _ _ r rfl rfl rfl

theorem setTriggers (r : Req) : Statement (.setTriggers r) := of_request _ _ r rfl rfl rfl

theorem mark (r : Req) : Statement (.mark r) := of_request _ _ r rfl rfl rfl

theorem freezeRelease (r : Req) : Statement (.freezeRelease r) := of_request _ _ r rfl rfl rfl

theorem clearLockout (r : Req) : Statement (.clearLockout r) := of_request _ _ r rfl rfl rfl

theorem readIncStatus (r : Req) : Statement (.readIncStatus r) := of_request _ _ r rfl rfl rfl

theorem readIncHeader (r : Req) : Statement (.readIncHeader r) := of_request _ _ r rfl rfl rfl

theorem readIncSnap (r : Req) : Statement (.readIncSnap r) := of_request _ _ r rfl rfl rfl

theorem setCounter (r : Req) : Statement (.setCounter r) := of_request _ _ r rfl rfl rfl

theorem clearCounter (r : Req) : Statement (.clearCounter r) := of_request _ _ r rfl rfl rfl

theorem readCounter (r : Req) : Statement (.readCounter r) := of_request _ _ r rfl rfl rfl

theorem diagSelect (r : Req) : Statement (.diagSelect r) := of_request _ _ r rfl rfl rfl

theorem diagRead (r : Req) : Statement (.diagRead r) := of_request _ _ r rfl rfl rfl

theorem diagWrite (r : Req) : Statement (.diagWrite r) := of_request _ _ r rfl rfl rfl

theorem restart (r : Req) : Statement (.restart r) := of_request _ _ r rfl rfl rfl

theorem unknownRequestKind (kind : Byte) (r : Req) : Statement (.unknownRequestKind kind r) := by
  intro k q hk hwf
  obtain ⟨rfl, rfl⟩ : kind = k ∧ r = q := by simpa [requestParts] using hk
  have h : admits kind r.link = false := by simpa [Instr.wf] using hwf
  simp [requestFrom, h]

theorem frameCheckFailure (l : LinkId) : Statement (.frameCheckFailure l) := of_event _ rfl

theorem transferAbort (l : LinkId) : Statement (.transferAbort l) := of_event _ rfl

theorem linkTimeoutExpiry (l : LinkId) : Statement (.linkTimeoutExpiry l) := of_event _ rfl

theorem freshExpiry (i : Item) : Statement (.freshExpiry i) := of_event _ rfl

theorem holdExpiry (i : Item) : Statement (.holdExpiry i) := of_event _ rfl

theorem goodHoldExpiry (i : Item) : Statement (.goodHoldExpiry i) := of_event _ rfl

theorem blendPeriodExpiry : Statement .blendPeriodExpiry := of_event _ rfl

theorem shortfallTimerExpiry : Statement .shortfallTimerExpiry := of_event _ rfl

theorem airDeviationTimerExpiry (t : Truck) : Statement (.airDeviationTimerExpiry t) := of_event _ rfl

theorem tachQualification (k : Axle) (high : Bool) : Statement (.tachQualification k high) := of_event _ rfl

theorem windowExpiry (k : Axle) : Statement (.windowExpiry k) := of_event _ rfl

theorem zeroTimerExpiry (k : Axle) : Statement (.zeroTimerExpiry k) := of_event _ rfl

theorem openTachTimerExpiry (k : Axle) : Statement (.openTachTimerExpiry k) := of_event _ rfl

theorem standstillTimerExpiry : Statement .standstillTimerExpiry := of_event _ rfl

theorem dumpTimerExpiry (t : Truck) : Statement (.dumpTimerExpiry t) := of_event _ rfl

theorem sampleTimerExpiry : Statement .sampleTimerExpiry := of_event _ rfl

theorem incidentTrigger (c : Cause) (detail : Byte) : Statement (.incidentTrigger c detail) := of_event _ rfl

theorem porstNAssert : Statement .porstNAssert := of_event _ rfl

theorem powerOn : Statement .powerOn := of_event _ rfl

theorem powerOnScanComplete (wrst : Bool) : Statement (.powerOnScanComplete wrst) := of_event _ rfl

theorem wrstNAssert : Statement .wrstNAssert := of_event _ rfl

theorem warmRestartComplete : Statement .warmRestartComplete := of_event _ rfl

theorem transferStart (l : LinkId) : Statement (.transferStart l) := of_event _ rfl

theorem tachSample (k : Axle) (high : Bool) : Statement (.tachSample k high) := of_event _ rfl

theorem powerLoss : Statement .powerLoss := of_event _ rfl

theorem retentionSupplyLoss : Statement .retentionSupplyLoss := of_event _ rfl

end Sys2Proof.Laws.FrameOf
end

