-- ==== Sys2Proof/Laws/Requests.lean ====
section
/-! SUPPORT. What a taken request leaves, by the way it is answered; what an exception occurrence and a
changed posted value lead to; and the readings of the numbered containers after a replacement. -/

namespace Sys2Proof.Machine

/-- A request answered with OK, whose rule leaves the links. -/
theorem State.serve_ok {s u t : State} {kind : Byte} {r : Req} {body : State → Answer} {w : Words}
    (h : s.Takes kind r u) (hb : body u = answerOk t w) (hp : t.links = u.links) :
    s.serve kind r body = t.answered kind r .ok w := by
  rw [State.serve_takes _ _ _ _ _ h, hb]
  refine Answer.conclude_some _ _ _ _ _ ?_
  have := State.arrive_up s r.link
  rw [← h.2.2.1] at this
  simpa [State.port, hp] using this

/-- A request that its own checks refuse. -/
theorem State.serve_refuse {s u : State} {kind : Byte} {r : Req} {body : State → Answer} {st : Status}
    (h : s.Takes kind r u) (hb : body u = refuse u st) :
    s.serve kind r body = u.answered kind r st {} := by
  rw [State.serve_takes _ _ _ _ _ h, hb]
  refine Answer.conclude_some _ _ _ _ _ ?_
  rw [h.2.2.1]
  exact State.arrive_up _ _

/-- A request of a kind that its link may not send (R179 check 1). -/
theorem State.serve_kind {s : State} {kind : Byte} {r : Req} {body : State → Answer}
    (hs : s.Serving r.link) (ha : admits kind r.link = false) :
    s.serve kind r body = (s.arrive r.link).answered kind r .refusedKind {} := by
  rw [s.serve_eq _ _ _ hs]
  simp only [State.take, ha, Bool.not_false, if_true, refuse]
  exact Answer.conclude_some _ _ _ _ _ (State.arrive_up _ _)

/-! Containers -/

/-- Reading an item after a replacement. -/
theorem Posted.get_set (v : Posted) (i j : Item) (x : PostedItem) :
    (v.set i x).get j = if j = i then x else v.get j := by
  rcases i with _ | _ | ⟨_ | _⟩ | ⟨_ | _ | _ | _ | _ | _⟩ | ⟨_ | _ | _ | _ | _ | _⟩ | ⟨_ | _⟩ | _ <;>
    rcases j with _ | _ | ⟨_ | _⟩ | ⟨_ | _ | _ | _ | _ | _⟩ | ⟨_ | _ | _ | _ | _ | _⟩ | ⟨_ | _⟩ | _ <;> rfl

/-! Demand -/

/-- A change of a demand source settles the figures and the mode (R20, R32, R33). -/
theorem State.demandChanged_settled (u : State) (d : Demand) :
    ModeSettled (u.recomputed d) (u.setDemand d).demandChanged := by
  have : (u.setDemand d).recomputeDemand = u.recomputed d := rfl
  rw [State.demandChanged, this]
  exact State.evaluateMode_settled _

/-- Settling the mode leaves the links. -/
theorem ModeSettled.links {b t : State} (h : ModeSettled b t) : t.links = b.links := by
  rw [h.same]
  rfl

/-! Exceptions -/

/-- What an occurrence of an exception leaves (R13, R14). -/
theorem State.occur_raised (s : State) (k : ExcKind) (d : Nat) : Raised s (s.occur k d) k d := by
  have hk : ∀ (e : PerKind ExcEntry) x, (e.set k x).get k = x := by
    intro e x
    cases k <;> rfl
  have ho : ∀ (e : PerKind ExcEntry) x k', k' ≠ k → (e.set k x).get k' = e.get k' := by
    intro e x k' h
    cases k <;> cases k' <;> first | rfl | exact absurd rfl h
  constructor
  · intro h
    unfold State.occur
    dsimp only
    split <;> simp [State.setExc, State.send, State.setSent, hk, ExcEntry.occur, h]
  · intro h
    unfold State.occur
    dsimp only
    obtain ⟨x, hs⟩ := Option.ne_none_iff_exists'.mp h
    split <;> simp [State.setExc, State.send, State.setSent, ExcEntry.occur, hs]
  · intro k' h
    unfold State.occur
    dsimp only
    split <;> simp [State.setExc, State.send, State.setSent, ho _ _ _ h]
  · unfold State.occur
    dsimp only
    split <;> simp [State.setExc, State.send, State.setSent]
  · unfold State.occur
    dsimp only
    split <;> simp [State.setExc, State.send, State.setSent]

/-- What the occurrences of one kind by one request leave (R15). -/
theorem State.occurFirst_raised (s : State) (k : ExcKind) (ds : List Delivery) :
    RaisedFirst s (s.occurFirst k ds) k (ds.map (·.item)) := by
  cases ds with
  | nil => rfl
  | cons d ds => exact State.occur_raised _ _ _

/-! Cuts -/

/-- A reduction with a bound below the axle's command (R79). -/
theorem State.reduceAxle_below (s : State) (k : Axle) (b : Nat) (w : Reason) (h : b < s.command k) :
    (b < (s.blend.record.axles.get k).target →
      s.reduceAxle k b w = s.setRecord { s.blend.record with
        revision := oneMore s.blend.record.revision
        axles := s.blend.record.axles.set k ⟨b, b, false, w⟩ }) ∧
    ((s.blend.record.axles.get k).target ≤ b → s.reduceAxle k b w = s) := by
  have hc : (s.blend.record.axles.get k).cut b w = ⟨b, b, false, w⟩ := by
    have : b < (s.blend.record.axles.get k).command := h
    simp [AxleAlloc.cut, Nat.min_eq_right (Nat.le_of_lt this)]
  refine ⟨fun ht => ?_, fun ht => ?_⟩
  · unfold State.reduceAxle Alloc.reduceAxle
    rw [if_pos ht, hc]
    rfl
  · unfold State.reduceAxle Alloc.reduceAxle
    rw [if_neg (by omega)]
    rfl

/-- The cut of a fallen adhesion limit touches the Blend Unit alone (R117). -/
theorem State.limitCut_frame (s : State) (k : Axle) (n : Nat) : ∃ b, s.limitCut k n = s.setBlend b := by
  unfold State.limitCut
  dsimp only
  split
  · exact ⟨_, rfl⟩
  · exact ⟨s.blend, rfl⟩

/-- The cut of an entry into KEEP or DUMP touches the Blend Unit alone (R121, R122). -/
theorem State.actionCut_frame (s : State) (t : Truck) (a : Action) :
    ∃ b, s.actionCut t a = s.setBlend b := by
  unfold State.actionCut
  dsimp only
  split
  · exact ⟨s.blend, rfl⟩
  · split
    · exact ⟨s.blend, rfl⟩
    · exact ⟨_, rfl⟩
    · exact ⟨_, rfl⟩

/-- Re-deriving a truck's action leaves the axles of the Slide Unit. -/
theorem State.rederiveAction_axles (s : State) (t : Truck) :
    (s.rederiveAction t).slide.axles = s.slide.axles := by
  unfold State.rederiveAction
  dsimp only
  split
  · rfl
  · split <;> rfl

end Sys2Proof.Machine
end

