-- ==== Sys2Proof/Laws/Posted.lean ====
section
/-! SUPPORT. What the Posted Value Table hands on when values change, and what a posting request leaves. -/

namespace Sys2Proof.Machine

/-- The limit reduction that one axle's changed availability sends (R12). -/
def availStep (b : State) (old : Posted) (k : Axle) (u : State) : State :=
  if b.posted.availability k < old.availability k then u.reduceAxle k (b.posted.availability k) .avail else u

/-- One axle's step: a cut where its availability has fallen below its target, and nothing otherwise. -/
theorem availStep_cases (b u : State) (old : Posted) (k : Axle)
    (hu : u.blend.record.axles.get k = b.blend.record.axles.get k) :
    (b.availFalls old k = true ∧ availStep b old k u = u.setRecord { u.blend.record.bump with
      axles := u.blend.record.axles.set k
        ((b.blend.record.axles.get k).cut (b.posted.availability k) .avail) }) ∨
    (b.availFalls old k = false ∧ availStep b old k u = u) := by
  unfold availStep State.availFalls
  by_cases h1 : b.posted.availability k < old.availability k
  · by_cases h2 : b.posted.availability k < (b.blend.record.axles.get k).target
    · refine Or.inl ⟨by simp [h1, h2], ?_⟩
      rw [if_pos h1, State.reduceAxle, Alloc.reduceAxle, if_pos (by rw [hu]; exact h2), hu]
    · refine Or.inr ⟨by simp [h2], ?_⟩
      rw [if_pos h1, State.reduceAxle, Alloc.reduceAxle, if_neg (by rw [hu]; exact h2)]
      rfl
  · exact Or.inr ⟨by simp [h1], by rw [if_neg h1]⟩

/-- The reductions of several axles, in order. -/
theorem availSteps (b : State) (old : Posted) : ∀ (xs : List Axle) (u : State), xs.Nodup →
    (∀ k ∈ xs, u.blend.record.axles.get k = b.blend.record.axles.get k) →
    let m := forEach xs (availStep b old) u
    (∀ k, m.blend.record.axles.get k =
      if k ∈ xs ∧ b.availFalls old k = true then
        (b.blend.record.axles.get k).cut (b.posted.availability k) .avail
      else u.blend.record.axles.get k) ∧
    m.blend.record.revision = max u.blend.record.revision
      (min 65535 (u.blend.record.revision + (xs.filter (b.availFalls old)).length)) ∧
    m = u.setRecord { u.blend.record with
      revision := m.blend.record.revision, axles := m.blend.record.axles } := by
  intro xs
  induction xs with
  | nil =>
    intro u _ _
    simp [forEach, State.setRecord, State.setBlend]
  | cons x xs ih =>
    intro u hn hu
    obtain ⟨hx, hn⟩ := List.nodup_cons.mp hn
    have hstep := availStep_cases b u old x (hu x (by simp))
    have hu2 : ∀ k ∈ xs,
        (availStep b old x u).blend.record.axles.get k = b.blend.record.axles.get k := by
      intro k hk
      have hne : k ≠ x := by
        rintro rfl
        exact hx hk
      rcases hstep with ⟨_, h⟩ | ⟨_, h⟩ <;> rw [h]
      · simp [State.setRecord, State.setBlend, hne, hu k (by simp [hk])]
      · exact hu k (by simp [hk])
    obtain ⟨i1, i2, i3⟩ := ih (availStep b old x u) hn hu2
    have e : forEach (x :: xs) (availStep b old) u = forEach xs (availStep b old) (availStep b old x u) := rfl
    dsimp only
    rw [e]
    rcases hstep with ⟨hf, h⟩ | ⟨hf, h⟩
    · refine ⟨?_, ?_, ?_⟩
      · intro k
        rw [i1 k]
        by_cases hk : k = x
        · subst hk
          simp [hx, hf, h, State.setRecord, State.setBlend]
        · simp [hk, h, State.setRecord, State.setBlend]
      · rw [i2, h]
        simp only [State.setRecord, State.setBlend, Alloc.bump, List.filter_cons, hf, if_true,
          List.length_cons]
        split <;> omega
      · rw [i3, h]
        rfl
    · refine ⟨?_, ?_, ?_⟩
      · intro k
        rw [i1 k, h]
        by_cases hk : k = x
        · subst hk
          simp [hx, hf]
        · simp [hk]
      · rw [i2, h]
        simp [hf]
      · rw [h] at i3 ⊢
        exact i3

/-- What the table's hand-off leaves (R12, R19). -/
theorem State.handPosted_handed (b : State) (old : Posted) : Handed b (b.handPosted old) old := by
  obtain ⟨h1, h2, h3⟩ := availSteps b old allAxles b (by decide) (fun _ _ => rfl)
  refine ⟨forEach allAxles (availStep b old) b, ⟨?_, h2, h3⟩, ?_, ?_⟩
  · intro k
    rw [h1 k]
    by_cases hf : b.availFalls old k = true
    · rw [if_pos ⟨mem_allAxles k, hf⟩]
      refine Eq.trans ?_ (if_pos hf).symm
      simp only [AxleAlloc.cut, State.command]
      congr 1
      apply decide_eq_decide.mpr
      omega
    · rw [if_neg (fun h => hf h.2)]
      exact (if_neg hf).symm
  · intro h
    unfold State.handPosted
    dsimp only
    rw [if_pos h]
    rfl
  · intro h
    have e : b.handPosted old = (forEach allAxles (availStep b old) b).informDemand := by
      unfold State.handPosted
      dsimp only
      rw [if_neg h]
      rfl
    rw [e, State.informDemand]
    have hp : (forEach allAxles (availStep b old) b).posted = b.posted := by
      rw [h3]
      rfl
    have := State.demandChanged_settled (forEach allAxles (availStep b old) b)
      { (forEach allAxles (availStep b old) b).demand with
        db := (forEach allAxles (availStep b old) b).posted.db.demandValue
        auto := (forEach allAxles (availStep b old) b).posted.auto.demandValue
        ind := .ofFn (forEach allAxles (availStep b old) b).posted.indepFloor }
    rw [hp] at this ⊢
    exact this

/-! Postings -/

/-- The entries after the deliveries of distinct items. -/
theorem Posted.receive_get (v : Posted) : ∀ (ds : List Delivery), (ds.map (·.item)).Nodup → ∀ i,
    (∀ d ∈ ds, d.item = i → (v.receive ds).get i = d.entry) ∧
      (i ∉ ds.map (·.item) → (v.receive ds).get i = v.get i) := by
  intro ds
  induction ds generalizing v with
  | nil =>
    intro _ i
    exact ⟨by simp, fun _ => rfl⟩
  | cons d ds ih =>
    intro hn i
    simp only [List.map_cons, List.nodup_cons] at hn
    have e : v.receive (d :: ds) = (v.set d.item d.entry).receive ds := rfl
    rw [e]
    obtain ⟨h1, h2⟩ := ih (v.set d.item d.entry) hn.2 i
    refine ⟨?_, ?_⟩
    · intro x hx hxi
      rcases List.mem_cons.mp hx with rfl | hx
      · rw [h2 (by rw [← hxi]; exact hn.1), Posted.get_set, if_pos hxi.symm]
      · exact h1 x hx hxi
    · intro hi
      simp only [List.map_cons, List.mem_cons, not_or] at hi
      rw [h2 hi.2, Posted.get_set, if_neg hi.1]

/-- The entry that one post leaves (R3 to R5). -/
theorem deliver_entry (s : State) (i : Item) (n : Int) (m : Bool) :
    (deliver s i n m).entry = (s.posted.get i).posted s.now s.params (itemMax s.params i) n m := by
  unfold deliver PostedItem.posted
  cases m
  · simp only [PostedItem.take, Bool.false_eq_true, if_false]
    have : saturate (itemMax s.params i) n =
        if n < 0 then 0 else if (itemMax s.params i : Int) < n then itemMax s.params i else n.toNat := by
      unfold saturate
      split
      · omega
      · split <;> omega
    rw [this]
    congr 1
    simp only [outOfRange]
    by_cases h1 : n < 0 <;> by_cases h2 : (itemMax s.params i : Int) < n <;> simp [h1, h2]
  · rfl

/-- The item of a delivery. -/
theorem deliver_item (s : State) (i : Item) (n : Int) (m : Bool) : (deliver s i n m).item = i := by
  unfold deliver
  dsimp only
  split <;> rfl

/-- A delivery is saturated where an unmarked number is out of range (R4). -/
theorem deliver_saturated (s : State) (i : Item) (n : Int) (m : Bool) :
    (deliver s i n m).saturated = (!m && outOfRange (itemMax s.params i) n) := by
  unfold deliver
  cases m <;> simp

/-- A delivery is an occurrence of INPUT_CLAMPED where it enters the class (R4). -/
theorem deliver_clamped (s : State) (i : Item) (n : Int) (m : Bool) :
    (deliver s i n m).clampedNow =
      (!m && outOfRange (itemMax s.params i) n && decide ((s.posted.get i).cls ≠ .clamped)) := by
  unfold deliver
  cases m <;> simp

/-- A delivery is an occurrence of INPUT_FAULT where it enters the class (R5). -/
theorem deliver_fault (s : State) (i : Item) (n : Int) (m : Bool) :
    (deliver s i n m).faultNow = (m && decide ((s.posted.get i).cls ≠ .fault)) := by
  unfold deliver
  cases m <;> simp

/-- The deliveries of a request, item by item. -/
theorem deliveries_eq (s : State) (r : Req) (items : List Item) :
    deliveries s r items =
      items.zipIdx.map fun x => deliver s x.1 (postedNumber r x.2) (faultMarker r x.2) := by
  simp [deliveries, List.mapIdx_eq_zipIdx_map]

/-- The items of the deliveries that have a property of their post. -/
theorem deliveries_where (s : State) (r : Req) (items : List Item) (f : Delivery → Bool)
    (g : Item → Int → Bool → Bool) (h : ∀ i n m, f (deliver s i n m) = g i n m) :
    ((deliveries s r items).filter f).map (·.item) = postedWhere r items g := by
  rw [deliveries_eq, List.filter_map, List.map_map, postedWhere]
  congr 1
  · funext x
    simp [deliver_item]
  · congr 1
    funext x
    simp [h]

/-- Several occurrences of one event depend on the counters alone. -/
theorem State.countMany_counters (n : Nat) : ∀ (m : Nat) (s t : State), s.counters = t.counters →
    (s.countMany n m).counters = (t.countMany n m).counters := by
  intro m
  induction m with
  | zero => exact fun _ _ h => h
  | succ m ih =>
    intro s t h
    exact ih _ _ (by simp [State.count, State.setCounters, h])

/-- A hand-off leaves the table. -/
theorem State.handPosted_posted (b : State) (old : Posted) : (b.handPosted old).posted = b.posted := by
  obtain ⟨d, r, bb, h⟩ := b.handPosted_frame old
  rw [h]
  rfl

end Sys2Proof.Machine
end

