-- ==== Sys2Proof/Laws/Slide.lean ====
section
/-! SUPPORT. What re-deriving a truck's action can do. -/

namespace Sys2Proof.Machine

/-- The model derives the action that R120 gives. -/
theorem State.derivedAction_eq (s : State) (x : Truck) : s.derivedAction x = s.actionFor x := by
  have sliding : s.anySlide x [.sliding] = (axlesOf x).any fun k => decide (s.slideState k = .sliding) := by
    simp only [State.anySlide, List.contains_cons, List.contains_nil, Bool.or_false]
    exact congrArg _ (funext fun k => beq_eq_decide _ _)
  have any : s.anySlide x [.suspect, .recovering, .sliding] =
      (((axlesOf x).any fun k => decide (s.slideState k = .suspect) || decide (s.slideState k = .recovering)) ||
        (axlesOf x).any fun k => decide (s.slideState k = .sliding)) := by
    unfold State.anySlide
    generalize axlesOf x = ks
    induction ks with
    | nil => rfl
    | cons k ks ih =>
      have hk : (s.slide.axles.get k).state = s.slideState k := rfl
      simp only [List.any_cons, ih, hk]
      cases s.slideState k <;> simp
  unfold State.derivedAction State.actionFor
  rw [sliding, any]

/-- Leaving DUMP stops the dump timer. -/
theorem SlideTruck.leaveDump_eq (x : SlideTruck) (now : Stamp) :
    x.leaveDump now = { x with dumpAcc := x.stoppedAt now, dumpRun := none } := by
  obtain ⟨_, _, _, r, _⟩ := x
  cases r <;> rfl

/-- A re-derivation that changes the action replaces the truck's record and its dump line. -/
theorem State.rederiveAction_changed {s : State} {x : Truck}
    (h : s.actionFor x ≠ (s.slide.trucks.get x).action) :
    let y := s.slide.trucks.get x
    let left := if y.action = .dump then { y with dumpAcc := y.stoppedAt s.now, dumpRun := none } else y
    (s.rederiveAction x).slide.trucks = s.slide.trucks.set x
      (left.enter s.now s.params.dumpMax (s.pressure x) (s.actionFor x)) ∧
    (s.rederiveAction x).dump = s.dump.set x (decide (s.actionFor x = .dump)) := by
  simp only [State.rederiveAction, s.derivedAction_eq x, if_neg h, SlideTruck.leaveDump_eq]
  split <;> exact ⟨rfl, rfl⟩

/-- A re-derivation leaves what R120 to R123 say. -/
theorem State.rederiveAction_settled (s : State) (x : Truck) : ActionSettled s (s.rederiveAction x) x := by
  by_cases h : s.actionFor x = (s.slide.trucks.get x).action
  · have e : s.rederiveAction x = s := by
      simp only [State.rederiveAction, s.derivedAction_eq x, if_pos h]
    rw [e]
    constructor <;> simp_all
  · obtain ⟨ht, hl⟩ := State.rederiveAction_changed h
    have hx : s.actionFor x = .dump → (s.slide.trucks.get x).exhausted = false := by
      unfold State.actionFor
      grind
    have hy : (s.rederiveAction x).slide.trucks.get x = _ :=
      (congrArg (·.get x) ht).trans (PerTruck.get_set_self _ _ _)
    generalize hz : (s.rederiveAction x).slide.trucks.get x = z at hy
    constructor
    · intro y hy
      rw [ht, hl]
      exact ⟨PerTruck.get_set_ne _ _ _ _ hy, PerTruck.get_set_ne _ _ _ _ hy⟩
    · exact fun e => absurd e h
    · rw [hz, hy]
      cases s.actionFor x <;> rfl
    · exact fun _ => by rw [hl, PerTruck.get_set_self]
    all_goals
      intro ha hold
      rw [hz, hy]
      simp_all [SlideTruck.enter]

end Sys2Proof.Machine
end

