-- ==== Sys2Proof/Tests/Slice0.lean ====
section
/-! SUPPORT. Tests: well-formedness, frames, the spec's worked examples one step at a time, and for every
statement with hypotheses a concrete case that meets them. -/

open Sys2Proof Sys2Proof.Machine

namespace Sys2Proof.Tests

/-! Helpers -/

/-- The next state of an outcome; the reset state where there is none. -/
def after (o : Result) : State :=
  match o with
  | .next t => t
  | _ => .reset

/-- The state after one command. -/
def run (s : State) (c : Instr) : State := after (exec c s)

/-- The pending response of a link. -/
def reply (s : State) (l : LinkId) : Response := (s.port l).response

/-- A Link Interface in a state with given counts, its timer running. -/
def port (x : LinkState) (join fail : Nat) : LinkPort :=
  ⟨x, join, fail, some ⟨0, 100⟩, .noRequest, .idle, none⟩

/-- In service with all links UP. -/
def up : State := (State.reset.setPhase .running).setLinks (.ofFn fun _ => port .up 0 0)

/-- A state at a time in ms. -/
def later (now : Stamp) (s : State) : State := s.setClock { s.clock with ms := now }

/-- `up` with the P-link's interface replaced. -/
def upWith (x : LinkPort) : State := up.setPort .p x

/-- `up` at standstill. -/
def rest : State := up.setSpeed { up.speed with standstill := true }

/-- `up` with the demand figures replaced. -/
def demanding (d : Demand) : State := up.setDemand d

/-- `up` in MAINT. -/
def inMaint : State := demanding { up.demand with mode := .maint }

/-- A VALID item with its timers running. -/
def valid (x : Nat) : PostedItem :=
  ⟨.valid, some x, 0, some ⟨x, 0⟩, some ⟨0, 100⟩, some ⟨0, 500⟩, some ⟨0, 500⟩⟩

/-- `up` with one item's entry replaced. -/
def holding (i : Item) (x : PostedItem) : State := up.setPosted (up.posted.set i x)

/-- `up` with the recorder replaced. -/
def recording (x : Recorder) : State := up.setInc x

/-- `up` with axle 1 of the Slide Unit and of the Speed Unit replaced, at V_ref 1000. -/
def sliding (x : SlideAxle) (v : SpeedAxle) : State :=
  (up.setSlide { up.slide with axles := up.slide.axles.set .a1 x }).setSpeed
    { up.speed with axles := up.speed.axles.set .a1 v, vref := 1000 }

/-- A VALID axle at a speed. -/
def turning (v : Nat) : SpeedAxle := { SpeedAxle.reset with cls := .valid, speed := v }

/-- An axle in a slide state. -/
def slider (x : SlideState) : SlideAxle := { SlideAxle.reset with state := x }

/-- A request taken on an UP link. -/
theorem takes (s : State) (kind : Byte) (r : Req)
    (h : (decide (s.phase = .running) && decide ((s.port r.link).transfer ≠ .ignored) && admits kind r.link
      && decide ((s.arrive r.link).linkState r.link = .up)) = true) :
    s.Takes kind r (s.arrive r.link) := by
  simp only [Bool.and_eq_true, decide_eq_true_eq] at h
  exact ⟨⟨h.1.1.1, h.1.1.2⟩, h.1.2, rfl, fun _ => h.2⟩

/-! Well-formedness: each check refuses an ill-formed command -/

/-- POST_DB is the P-link's. -/
theorem test_wf_link : (Instr.postDb { link := .a }).wf = false ∧ (Instr.postDb { link := .p }).wf = true := by
  decide

/-- A frame of an admitted kind is that request, not an unknown one. -/
theorem test_wf_unknown : (Instr.unknownRequestKind 1 { link := .p }).wf = false ∧
    (Instr.unknownRequestKind 2 { link := .p }).wf = true := by
  decide

/-- PENALTY comes with a link's weight (Table 7-3). -/
theorem test_wf_trigger : (Instr.incidentTrigger .penalty 3).wf = false ∧
    (Instr.incidentTrigger .penalty 4).wf = true := by
  decide

/-! Frames -/

set_option maxRecDepth 20000 in
/-- The check value R172 gives for the characters "1" to "9". -/
theorem test_crc :
    crcOf [0x31#8, 0x32#8, 0x33#8, 0x34#8, 0x35#8, 0x36#8, 0x37#8, 0x38#8, 0x39#8] = 0x29B1#16 := by
  decide

/-- Table 10-1 read byte by byte: kind 16 from the P-link is POST_DB, word 1 in bytes 4 and 5. -/
theorem test_layout : reqOfBytes .p [16, 7, 3, 2, 0x12, 0x34, 0, 5] =
    { link := .p, tag := 7, selector := 3, field := 2, words := { w1 := 0x1234, w2 := 5 } } := by
  decide

/-- Codes of Table 10-4, one of each family, on an admitted and on another link. -/
theorem test_kinds (r : Req) : requestOf 0x10 r = some (.postDb r) ∧ requestOf 0x25 r = some (.modeReq r) ∧
    requestOf 0x30 r = some (.writeRes r) ∧ requestOf 0x46 r = some (.clearLockout r) ∧
    requestOf 0x52 r = some (.readIncSnap r) ∧ requestOf 0x60 r = some (.setCounter r) ∧
    requestOf 0x72 r = some (.diagWrite r) ∧ requestOf 0x80 r = some (.restart r) := by
  exact ⟨rfl, rfl, rfl, rfl, rfl, rfl, rfl, rfl⟩

/-! Posted values: Table 1-5 -/

/-- The row at 1600: 7000 posted on a FAULT item is CLAMPED at 6000 and counts event 19. -/
theorem test_postDb_clamps :
    (run (up.setCounters ⟨⟨19, 0⟩, ⟨0, 0⟩, ⟨0, 0⟩, ⟨0, 0⟩⟩)
      (.postDb { link := .p, words := { w1 := 7000 } })).posted.db.last = some 6000 ∧
    (run (up.setCounters ⟨⟨19, 0⟩, ⟨0, 0⟩, ⟨0, 0⟩, ⟨0, 0⟩⟩)
      (.postDb { link := .p, words := { w1 := 7000 } })).counters.c0.count = 1 := by
  decide

/-- The answer to it: kind and tag echoed, OK, class CLAMPED. -/
theorem test_postDb_answer :
    reply (run up (.postDb { link := .p, tag := 9, words := { w1 := 7000 } })) .p = ⟨16, 9, .ok, { w1 := 1 }⟩ := by
  decide

/-- A marked availability keeps its good value; a negative one is saturated to 0 (R4, R5). -/
theorem test_postAvail :
    (run (holding (.av .a1) (valid 500)) (.postAvail { link := .p, field := 1 })).posted.av.a1.good =
      some ⟨500, 0⟩ ∧
    (run up (.postAvail { link := .p, words := { w2 := 0xFFFF } })).posted.av.a2.cls = .clamped := by
  decide

/-- Six achieved efforts, the sixth from word 6. -/
theorem test_postAchieved :
    (run up (.postAchieved { link := .p, words := { w6 := 650 } })).posted.ae.a6.last = some 650 := by
  decide

/-- A ground speed of 16000 is in range (Table 1-1). -/
theorem test_postGround :
    (run up (.postGround { link := .p, words := { w1 := 16000 } })).posted.gs.cls = .valid := by
  decide

/-- AUTO becomes a source of D_blend (R20). -/
theorem test_postAuto :
    (run up (.postAuto { link := .a, words := { w1 := 3000 } })).demand.dBlend = 3000 := by
  decide

/-- An independent floor above P_SERVICE_MAX is saturated to it (Table 1-1). -/
theorem test_postInd : (run up (.postInd { link := .a, words := { w2 := 400 } })).demand.ind.t2 = 380 := by
  decide

/-- Achieved pressures of both trucks. -/
theorem test_postPressure :
    (run up (.postPressure { link := .a, words := { w1 := 95, w2 := 158 } })).posted.ap.t2.last = some 158 := by
  decide

/-- The row at 1100: STALE, and INPUT_STALE is set with detail 1 and sends no trigger, being masked. -/
theorem test_freshExpiry :
    (run (later 100 (holding .db (valid 2400))) (.freshExpiry .db)).exc.stale = ⟨some ⟨1, 100⟩, true⟩ ∧
    (run (later 100 (holding .db (valid 2400))) (.freshExpiry .db)).sent = [] := by
  decide

/-- The row at 1500: after the good-hold expiry a FAULT item is worth 0. -/
theorem test_goodHoldExpiry :
    (run (later 500 (holding .db { valid 2400 with cls := .fault })) (.goodHoldExpiry .db)
      ).posted.db.demandValue = 0 := by
  decide

/-- A hold expiry makes a STALE item ABSENT (R7). -/
theorem test_holdExpiry :
    (run (later 500 (holding .db { valid 2400 with cls := .stale, fresh := none })) (.holdExpiry .db)
      ).posted.db.cls = .absent := by
  decide

/-- MASK of kinds 1 and 4: INPUT_CLAMPED and INPUT_FAULT masked, INPUT_STALE no longer (R17). -/
theorem test_setMask :
    (run up (.setMask { link := .m, selector := 5 })).exc.fault.masked = true ∧
    (run up (.setMask { link := .m, selector := 5 })).exc.stale.masked = false := by
  decide

/-- CLEAR_EXC from the P-link is refused with REFUSED_KIND, 4 (R16). -/
theorem test_clearExc :
    reply (run up (.clearExc { link := .p, selector := 1 })) .p = ⟨66, 0, .refusedKind, {}⟩ := by
  decide

/-! Demand, penalty, emergency, mode -/

/-- PENALTY_SET from the A-link: D_blend is PEN_EFFORT, and PENALTY carries the A-link's weight 2. -/
theorem test_penaltySet :
    (run up (.penaltySet { link := .a })).demand.dTot = 4000 ∧
    (run up (.penaltySet { link := .a })).sent = [⟨.penalty, 2⟩] := by
  decide

/-- PENALTY_CLEAR removes its own link only (R23). -/
theorem test_penaltyClear :
    (run (demanding { up.demand with penalty := ⟨true, true, false⟩ }) (.penaltyClear { link := .p })
      ).demand.penalty = ⟨false, true, false⟩ := by
  decide

/-- PENALTY_RESET is refused while the standstill flag is clear, and empties the set at rest (R24). -/
theorem test_penaltyReset :
    (reply (run up (.penaltyReset { link := .m })) .m).status = .refusedState ∧
    (run (rest.setDemand { up.demand with penalty := ⟨true, true, true⟩ }) (.penaltyReset { link := .m })
      ).demand.penalty = {} := by
  decide

/-- EMER_SET makes D_blend D_MAX (Table 2-1). -/
theorem test_emerSet : (run up (.emerSet { link := .m })).demand.dTot = 5000 := by
  decide

/-- EMER_CLEAR at rest removes its own link only, and is refused on the move (R28). -/
theorem test_emerClear :
    (run (rest.setDemand { up.demand with emergency := ⟨false, true, true⟩ }) (.emerClear { link := .a })
      ).demand.emergency = ⟨false, false, true⟩ ∧
    (reply (run up (.emerClear { link := .a })) .a).status = .refusedState := by
  decide

/-- MODE_REQ from both links at rest gives MAINT (R30, R32). -/
theorem test_modeReq :
    (run (run rest (.modeReq { link := .p, selector := 2, words := { w1 := 1 } }))
      (.modeReq { link := .a, selector := 2, words := { w1 := 1 } })).demand.mode = .maint := by
  decide

/-! The Effort Resource Table: Table 3-8 -/

/-- AT1 in LOCKOUT with the figures of Table 3-8 before row 2. -/
def row1 : State :=
  ((up.setRes { up.res with
    air := up.res.air.set .t1 { Entry.airReset with linkLoss := false, lockout := true, state := .active } }
    ).setSlide { up.slide with axles := up.slide.axles.set .a2 (slider .lockout) }).setRecord
    { up.blend.record with
      trucks := up.blend.record.trucks.set .t1 ⟨0, 120, 120, false, false, .none⟩ }

/-- Row 2: the A-link writes AT1's remap LOCKOUT, and AT1 is FROZEN at 120; row 3: the P-link may not. -/
theorem test_writeRes_remap :
    (run row1 (.writeRes { link := .a, selector := 7, field := 6, words := { w1 := 1 } })).res.air.t1.state =
      .frozen ∧
    (reply (run row1 (.writeRes { link := .p, selector := 7, field := 1, words := { w1 := 100 } })) .p).status =
      .refusedMember := by
  decide

/-- Row 4: a ceiling of 100 cuts target and command from 120 to 100. -/
theorem test_writeRes_ceiling :
    (run row1 (.writeRes { link := .m, selector := 7, field := 1, words := { w1 := 100 } })
      ).blend.record.trucks.t1 = ⟨0, 100, 100, false, false, .none⟩ := by
  decide

/-- READ_RES of AT1 at power-on values: members A, ceiling 380, floor 100 (Table 3-2). -/
theorem test_readRes :
    (reply (run up (.readRes { link := .p, selector := 7 })) .p).data.w1 = 2 ∧
    (reply (run up (.readRes { link := .p, selector := 7 })) .p).data.w2 = 380 := by
  decide

/-! The blending computation: Tables 4-6 to 4-8 and 4-10 -/

/-- The inputs of Section 4.11. -/
def section411 : State :=
  let e : Entry := { Entry.electricReset with riseStep := 100, linkLoss := false, state := .active }
  let a : Entry := { Entry.airReset with linkLoss := false, state := .active }
  let before : PerAxle Nat := ⟨600, 400, 600, 600, 0, 600⟩
  { up with
    demand := { up.demand with dTot := 3600, dBlend := 3600 }
    res := ⟨(PerAxle.ofFn fun _ => e).set .a5 { e with lockout := true, state := .off }, .ofFn fun _ => a⟩
    posted := { up.posted with
      av := .ofFn fun _ => valid 800
      ae := ⟨valid 690, valid 380, valid 700, valid 700, valid 0, valid 650⟩
      ap := ⟨valid 95, valid 158⟩
      ind := ⟨valid 0, valid 0⟩ }
    blend := { up.blend with
      period := some ⟨0, 10⟩
      record := { up.blend.record with
        axles := .ofFn fun k => ⟨before.get k, before.get k, false, .share⟩
        trucks := ⟨⟨0, 90, 90, false, false, .keep⟩, ⟨0, 160, 160, false, false, .none⟩⟩ } }
    slide :=
      ⟨(up.slide.axles.set .a2 { slider .recovering with limit := 400 }).set .a5
        { slider .lockout with limit := 0 }, ⟨⟨.keep, 90, 0, none, false⟩, ⟨.none, 0, 0, none, false⟩⟩⟩ }

/-- Table 4-7. -/
theorem test_blendPeriodExpiry_electric :
    (run (later 10 section411) .blendPeriodExpiry).blend.record.axles =
      ⟨⟨800, 700, true, .avail⟩, ⟨400, 400, false, .adhesion⟩, ⟨800, 700, true, .avail⟩,
        ⟨800, 700, true, .avail⟩, ⟨0, 0, false, .state⟩, ⟨800, 700, true, .avail⟩⟩ := by
  decide

/-- Table 4-8. -/
theorem test_blendPeriodExpiry_air :
    (run (later 10 section411) .blendPeriodExpiry).blend.record.trucks =
      ⟨⟨128, 90, 90, false, true, .keep⟩, ⟨352, 187, 161, true, true, .none⟩⟩ := by
  decide

/-- SHORTFALL is raised with detail 0 and its trigger is sent (R74). -/
theorem test_shortfallTimerExpiry :
    (run (later 1000 (up.setBlend { up.blend with short := some ⟨0, 1000⟩ })) .shortfallTimerExpiry).sent =
      [⟨.excShortfall, 0⟩] := by
  decide

/-- AIR_DEVIATION of truck 2 has detail 2 (R75). -/
theorem test_airDeviationTimerExpiry :
    (run (later 1000 (up.setBlend { up.blend with dev := up.blend.dev.set .t2 ⟨.running 0 0, false⟩ }))
      (.airDeviationTimerExpiry .t2)).exc.deviation.source = some ⟨2, 1000⟩ := by
  decide

/-- Part 0 of READ_ALLOC holds the six commands in words 5 to 10 (Table 4-5). -/
theorem test_readAlloc :
    (reply (run section411 (.readAlloc { link := .p })) .p).data.w6 = 400 ∧
    (reply (run section411 (.readAlloc { link := .p, selector := 4 })) .p).status = .refusedRange := by
  decide

/-! Speeds: Tables 5-4 and 5-5 -/

/-- Axle 1 with the edges of a window that is over, at a time of the 1 MHz timebase. -/
def edges (x : SpeedAxle) (us : Stamp) : State :=
  { up with
    clock := ⟨20, us, 0⟩
    speed := { up.speed with axles := up.speed.axles.set .a1 { x with window := some ⟨0, 20⟩ } } }

/-- Table 5-4: 11 edges over 19,900 µs give 6820. -/
theorem test_windowExpiry_normal :
    (run (edges { SpeedAxle.reset with edges := 11, firstEdge := 4000100, lastEdge := 4020000 } 4020100)
      (.windowExpiry .a1)).speed.axles.a1.speed = 6820 := by
  decide

/-- Table 5-5: 72,000 µs after the last edge the silence bound gives 188. -/
theorem test_windowExpiry_silence :
    (run (edges { SpeedAxle.reset with history := [8932140, 9000000] } 9072000)
      (.windowExpiry .a1)).speed.axles.a1.speed = 188 := by
  decide

/-- The row "zero timer expiry" of Table 5-5: the history is emptied, the speed stays. -/
theorem test_zeroTimerExpiry :
    (run (later 1500
      (edges { SpeedAxle.reset with history := [8932140, 9000000], speed := 13, zero := some ⟨0, 1500⟩ } 0))
      (.zeroTimerExpiry .a1)).speed.axles.a1 =
      { SpeedAxle.reset with zeroDeclared := true, speed := 13, window := some ⟨0, 20⟩ } := by
  decide

/-- R90: an edge taken before the expiry restarts the zero timer, and the expiry does not happen. -/
theorem test_zeroTimerExpiry_restarted :
    (run ((later 1500 (edges { SpeedAxle.reset with zero := some ⟨0, 1500⟩ } 9)).handEdge .a1 7)
      (.zeroTimerExpiry .a1)).speed.axles.a1.history = [7] := by
  decide

/-- An open tachometer is in FAULT, and TACH_FAULT names the axle (R93). -/
theorem test_openTachTimerExpiry :
    (run (later 3000 (edges { SpeedAxle.reset with openTimer := some ⟨0, 3000⟩ } 0)) (.openTachTimerExpiry .a1)
      ).exc.tach.source = some ⟨1, 3000⟩ := by
  decide

set_option maxRecDepth 20000 in
/-- At rest with a penalty in force the mode is STAND (Section 2.9). -/
theorem test_standstillTimerExpiry :
    (run (later 2000
      ((demanding { up.demand with penalty := ⟨true, false, false⟩, dBlend := 4000, dTot := 4000 }).setSpeed
        { up.speed with still := some ⟨0, 2000⟩ })) .standstillTimerExpiry).demand.mode = .stand := by
  decide

/-- The first sample after a reset sets the level (R88); the third that agrees accepts the edge (R87). -/
theorem test_tachSample :
    (run up (.tachSample .a1 true)).tach.a1 = ⟨true, true, none, 0⟩ ∧
    (run (up.setTach (up.tach.set .a1 ⟨false, true, some ⟨5, some true⟩, 0⟩)) (.tachQualification .a1 true)
      ).speed.axles.a1.history = [5] := by
  decide

/-! Slides: Table 6-5 -/

/-- Axle 2 before an evaluation of Table 6-5: V_ref 6820, command and target 700, pressure 90. -/
def section68 (x : SlideAxle) (v : Nat) (now : Stamp) : State :=
  { up with
    clock := ⟨now, 0, 0⟩
    speed := { up.speed with axles := up.speed.axles.set .a2 (turning v), vref := 6820 }
    slide := { up.slide with axles := up.slide.axles.set .a2 x }
    blend := { up.blend with
      record := { up.blend.record with
        axles := up.blend.record.axles.set .a2 ⟨700, 700, false, .share⟩
        trucks := up.blend.record.trucks.set .t1 ⟨0, 90, 90, false, false, .none⟩ } } }

/-- The row at 0 (here 40000): the onset gives SLIDING with L_2 420, and truck 1 DUMP. -/
theorem test_evaluate_onset :
    let t := (section68 { slider .suspect with limit := 700, entryTime := 39960, history := [5000] } 5700
      40000).evaluate .a2
    t.slide.axles.a2.state = .sliding ∧ t.slide.axles.a2.limit = 420 ∧ t.dump.t1 = true ∧
      t.blend.record.axles.a2 = ⟨420, 420, false, .adhesion⟩ := by
  decide

/-- The row at 80: 20 ms into the recovery the limit has risen by 4. -/
theorem test_evaluate_recovery :
    ((section68 { slider .recovering with
      limit := 420, entryTime := 60, recoverStart := 60, lastEval := some 60 } 6700 80).evaluate .a2
      ).slide.axles.a2.limit = 424 := by
  decide

/-- A dump timeout with axle 1 still sliding: KEEP, exhausted, DUMP_TIMEOUT for truck 1 (R123). -/
theorem test_dumpTimerExpiry :
    (run (later 3000 (up.setSlide ⟨up.slide.axles.set .a1 (slider .sliding),
      ⟨⟨.dump, 0, 0, some ⟨0, 3000⟩, false⟩, up.slide.trucks.t2⟩⟩)) (.dumpTimerExpiry .t1)).slide.trucks.t1 =
      ⟨.keep, 0, 3000, none, true⟩ := by
  decide

/-- CLEAR_LOCKOUT at rest (row 6 of Table 3-8): NORMAL with limit 1000. -/
theorem test_clearLockout :
    (run (rest.setSlide { up.slide with axles := up.slide.axles.set .a2 { slider .lockout with limit := 0 } })
      (.clearLockout { link := .m, selector := 2 })).slide.axles.a2.limit = 1000 := by
  decide

/-- READ_AXLE shows the slide state in word 4 (R181). -/
theorem test_readAxle :
    (reply (run (up.setSlide { up.slide with axles := up.slide.axles.set .a6 (slider .recovering) })
      (.readAxle { link := .a, selector := 6 })) .a).data.w4 = 3 := by
  decide

/-! Parameters and status -/

/-- READ_PARAM of T_FRESH (id 1): 100, from 20 to below T_HOLD 500 (Table 1-3). -/
theorem test_readParam :
    (reply (run up (.readParam { link := .a, selector := 1 })) .a).data =
      { w1 := 1, w2 := 100, w3 := 20, w4 := 499 } := by
  decide

/-- WRITE_PARAM of S_SLIDE (id 34) at rest below S_SUSPECT is refused; LINK_TIMEOUT[P] needs no rest. -/
theorem test_writeParam :
    (reply (run rest (.writeParam { link := .m, selector := 34, words := { w1 := 79 } })) .m).status =
      .refusedRange ∧
    (run up (.writeParam { link := .m, selector := 49, words := { w1 := 2000 } })).params.linkTimeout.p =
      2000 := by
  decide

/-- Every parameter stands at its default: the ids at the ends of Table 10-5's rows. -/
theorem test_paramIds :
    [1, 2, 4, 5, 15, 16, 31, 32, 44, 45, 48, 49, 51].map (fun i => (paramOf i).map ({} : Params).get) =
      [some 100, some 500, some 4000, some 10, some 1000, some 1000, some 2000, some 300, some 3000, some 20,
        some 0, some 100, some 100] := by
  decide

/-- READ_STATUS part 0: standstill in word 2, all links UP in word 4 (2 × 16 + 2 × 4 + 2). -/
theorem test_readStatus :
    (reply (run rest (.readStatus { link := .p })) .p).data.w2 = 1 ∧
    (reply (run rest (.readStatus { link := .p })) .p).data.w4 = 42 := by
  decide

/-! Counters and diagnostics -/

/-- SET_COUNTER keeps the count (R165). -/
theorem test_setCounter :
    (run (up.setCounters ⟨⟨3, 7⟩, ⟨0, 0⟩, ⟨0, 0⟩, ⟨0, 0⟩⟩)
      (.setCounter { link := .m, selector := 0, words := { w1 := 63 } })).counters.c0 = ⟨63, 7⟩ := by
  decide

/-- CLEAR_COUNTER in MAINT answers with the count before the clear (R167). -/
theorem test_clearCounter :
    (reply (run (inMaint.setCounters ⟨⟨3, 7⟩, ⟨0, 0⟩, ⟨0, 0⟩, ⟨0, 0⟩⟩) (.clearCounter { link := .m })) .m).data =
      { w2 := 3, w3 := 7 } := by
  decide

/-- READ_COUNTER of counter 4 is refused (R166). -/
theorem test_readCounter :
    (reply (run up (.readCounter { link := .p, selector := 4 })) .p).status = .refusedRange := by
  decide

/-- DIAG_SELECT of word 1030 of slot 7 is accepted, of word 3 of the retention area refused (R160). -/
theorem test_diagSelect :
    (run up (.diagSelect { link := .m, selector := 7, words := { w1 := 1030 } })).diag = ⟨7, 1030⟩ ∧
    (reply (run up (.diagSelect { link := .m, selector := 8, words := { w1 := 3 } })) .m).status =
      .refusedRange := by
  decide

set_option maxRecDepth 20000 in
/-- DIAG_WRITE in MAINT plants a word; with one data bit off it reads as class 1 (Section 8.5). -/
theorem test_diagWrite :
    (reply (run inMaint (.diagWrite { link := .m, words := { w2 := 1, w3 := 0 } })) .m).data =
      { w4 := 1, w6 := 1 } := by
  decide

set_option maxRecDepth 20000 in
/-- Data bit 0 stands at position 3, so it sets check bits 0 and 1 and check bit 6 (R153). -/
theorem test_check : checkOf 1 = 0x43#7 ∧ checkWord ⟨1, 0x43⟩ = ⟨.clean, 1⟩ := by
  decide

set_option maxRecDepth 20000 in
/-- DIAG_READ of an all-zero word: class clean. -/
theorem test_diagRead : (reply (run up (.diagRead { link := .m })) .m).data = {} := by
  decide

/-! Incidents -/

set_option maxRecDepth 40000 in
/-- An opening in slot 0: CAPTURING with number 1, header word 6 as R134 codes it. -/
theorem test_incidentTrigger :
    (run up (.incidentTrigger .linkLossP 1)).inc.slots.s0 = ⟨.capturing, some 1⟩ ∧
    (run up (.incidentTrigger .linkLossP 1)).mem.read (slotAddr .s0 2) = protect 0x03010000 := by
  decide

/-- MARK with every kind disabled is ignored (R132). -/
theorem test_mark :
    (reply (run (recording { up.inc with enabled := 0 }) (.mark { link := .m, words := { w1 := 5 } })) .m).data =
      {} := by
  decide

/-- SET_TRIGGERS replaces the set (R131). -/
theorem test_setTriggers :
    (run up (.setTriggers { link := .m, words := { w1 := 0x8001 } })).inc.enabled = 0x8001 := by
  decide

set_option maxRecDepth 20000 in
/-- FREEZE_RELEASE is refused on the move, and leaves FREEZE at rest (R144). -/
theorem test_freezeRelease :
    (reply (run up (.freezeRelease { link := .m })) .m).status = .refusedState ∧
    (run (rest.setInc { up.inc with freeze := true }) (.freezeRelease { link := .m })).inc.freeze = false := by
  decide

/-- READ_INC_STATUS arms the UNREAD slot and clears the incident-lost flag (R146). -/
theorem test_readIncStatus :
    let t := run (recording { up.inc with slots := up.inc.slots.set .s3 ⟨.unread, some 41⟩, lost := true })
      (.readIncStatus { link := .m })
    t.inc.armed.s3 = true ∧ t.inc.lost = false ∧ (reply t .m).data.w1 = 3 ∧ (reply t .m).data.w9 = 41 := by
  decide

set_option maxRecDepth 40000 in
/-- A FREE slot's header is answered with its state alone (R147). -/
theorem test_readIncHeader :
    (reply (run up (.readIncHeader { link := .p, selector := 7 })) .p) = ⟨81, 0, .ok, {}⟩ := by
  decide

/-- A FREE slot's snapshots are refused with REFUSED_STATE (R148). -/
theorem test_readIncSnap :
    (reply (run up (.readIncSnap { link := .p, selector := 7 })) .p).status = .refusedState := by
  decide

/-- A sample expiry restarts the timer for SAMPLE_PERIOD and pushes one snapshot (R128). -/
theorem test_sampleTimerExpiry :
    (run (later 20 (recording { up.inc with sample := some ⟨0, 20⟩ })) .sampleTimerExpiry).inc.ring.length = 1 := by
  decide

/-! Links: Table 10-4a -/

/-- Time 0: the first passing frame makes the link JOINING, and its posting is refused. -/
theorem test_nop_join :
    (run (upWith .reset) (.postDb { link := .p, words := { w1 := 2400 } })).links.p.state = .joining ∧
    (reply (run (upWith .reset) (.postDb { link := .p, words := { w1 := 2400 } })) .p).status = .refusedState := by
  decide

/-- Time 40: the third in succession makes it UP, and the posting is taken. -/
theorem test_nop_up :
    (run (upWith (port .joining 2 0)) (.postDb { link := .p, words := { w1 := 2400 } })).posted.db.cls = .valid ∧
    (run (upWith (port .joining 2 0)) (.nop { link := .p })).links.p.state = .up := by
  decide

/-- Time 10: a failing frame clears the join count and answers CHECK_FAILED. -/
theorem test_frameCheckFailure :
    (run (upWith (port .joining 1 0)) (.frameCheckFailure .p)).links.p =
      { port .joining 0 1 with response := ⟨0, 0, .checkFailed, {}⟩ } := by
  decide

/-- A stopped link timer has nothing to expire (R177). -/
theorem test_linkTimeoutExpiry : (run (upWith .reset) (.linkTimeoutExpiry .p)).sent = [] := by
  decide

/-- An abort answers ABORTED (R170); a kind that is not admitted REFUSED_KIND (R179). -/
theorem test_transferAbort :
    (reply (run up (.transferAbort .a)) .a).status = .aborted ∧
    (reply (run up (.unknownRequestKind 2 { link := .a, tag := 4 })) .a) = ⟨2, 4, .refusedKind, {}⟩ := by
  decide

set_option maxRecDepth 40000 in
/-- The frame shifted out holds the status in byte 2 and the summary in byte 3: UP is 2 × 4 (R174). -/
theorem test_transferStart :
    ((run up (.transferStart .p)).links.p.shiftOut.map fun b => b.take 4) = some [0, 0, 1, 8] := by
  decide

/-! Power and resets -/

/-- RESTART at rest begins a warm restart with detail 2, on the move it is refused (R184). -/
theorem test_restart :
    (run rest (.restart { link := .m })).inc.restartPending = some 2 ∧
    (reply (run up (.restart { link := .m })) .m).status = .refusedState := by
  decide

/-- WRST_N keeps the penalty holders (R25), and BRK_FAULT is asserted through the restart (R37). -/
theorem test_wrstNAssert :
    (run (demanding { up.demand with penalty := ⟨true, false, false⟩ }) .wrstNAssert).demand.penalty.p = true ∧
    (run up .wrstNAssert).brkFault = true := by
  decide

/-- The blend period starts at the completion of a restart (R59). -/
theorem test_warmRestartComplete :
    (run (up.setPhase .restarting) .warmRestartComplete).blend.period = some ⟨0, 10⟩ := by
  decide

/-- PORST_N stops the part; its release begins the scan (R185). -/
theorem test_porstN :
    (run up .porstNAssert).phase = .held ∧ (run (up.setPhase .held) .powerOn).phase = .scanning := by
  decide

/-- Without VDD the words are kept by VBAK, and lost when both are gone, in either order (R152). -/
theorem test_supplies :
    (run up .powerLoss).mem = up.mem ∧ (run (run up .retentionSupplyLoss) .powerLoss).mem.losses = 1 ∧
    (run (up.setPhase .unpowered) .retentionSupplyLoss).mem.losses = 1 := by
  decide

set_option maxRecDepth 100000 in
/-- After a scan of lost memory the number 1 comes next and the indication is set (R157). -/
theorem test_powerOnScanComplete :
    (run .reset (.powerOnScanComplete false)).memLost = true ∧
    (run .reset (.powerOnScanComplete false)).inc.nextSeq = 1 := by
  decide

/-! Witnesses: for each statement with hypotheses, cases that meet them, one for each clause -/

theorem witness_StepRunsFrontCommand : ∃ s : State, s.pending = [.blendPeriodExpiry, .nop { link := .p }] :=
  ⟨up.setPending [.blendPeriodExpiry, .nop { link := .p }], rfl⟩

theorem witness_EmptyQueueIdles :
    (∃ s : State, s.pending = [] ∧ s.sent = [⟨.penalty, 1⟩] ∧ s.phase = .running) ∧
    (∃ s : State, s.pending = [] ∧ s.sent = [] ∧ s.clock.sub = 999) ∧
    ∃ s : State, s.pending = [] ∧ s.sent = [⟨.penalty, 1⟩] ∧ s.phase ≠ .running :=
  ⟨⟨up.setSent [⟨.penalty, 1⟩], rfl, rfl, rfl⟩, ⟨up.setClock ⟨0, 0, 999⟩, rfl, rfl, rfl⟩,
    ⟨State.reset.setSent [⟨.penalty, 1⟩], rfl, rfl, by decide⟩⟩

theorem witness_SuppliesAndReset :
    (∃ s : State, s.phase = .unpowered) ∧ (∃ s : State, s.phase ≠ .unpowered ∧ s.vbak = true) ∧
    ∃ s : State, s.phase ≠ .unpowered ∧ s.vbak = false :=
  ⟨⟨up.setPhase .unpowered, rfl⟩, ⟨up, by decide, rfl⟩, ⟨up.setVbak false, by decide, rfl⟩⟩

theorem witness_OutsideServiceNothingHappens :
    (∃ (c : Instr) (s : State), c.wf = true ∧ needsService c = true ∧ s.phase ≠ .running) ∧
    (∃ s : State, s.phase ≠ .restarting) ∧ ∃ s : State, s.phase ≠ .scanning :=
  ⟨⟨.emerSet { link := .a }, .reset, by decide, rfl, by decide⟩, ⟨up, by decide⟩, ⟨up, by decide⟩⟩

theorem witness_WarmRestartBegins :
    (∃ s : State, s.phase = .running) ∧ (∃ s : State, s.phase = .scanning) ∧
    (∃ (r : Req) (s u : State), s.Takes 128 r u ∧ u.speed.standstill = true) ∧
    ∃ (r : Req) (s u : State), s.Takes 128 r u ∧ u.speed.standstill = false :=
  ⟨⟨up, rfl⟩, ⟨.reset, rfl⟩, ⟨{ link := .m }, rest, _, takes _ _ _ (by decide), by decide⟩,
    ⟨{ link := .m }, up, _, takes _ _ _ (by decide), by decide⟩⟩

theorem witness_RestartCompletes : ∃ s : State, s.phase = .restarting := ⟨up.setPhase .restarting, rfl⟩

set_option maxRecDepth 40000 in
theorem witness_ScanOfLostMemory : ∃ s : State, s.phase = .scanning ∧ s.mem.wf ∧
    markerIntact (s.mem.read (retentionAddr 0)) = false :=
  ⟨.reset, rfl, by decide, by decide⟩

/-- A retained memory: slot 0 FREE, slot 1 with an uncorrectable word 0, slot 2 with state code 4, slot 3
CAPTURING and malformed, slot 4 CAPTURING and well formed, slot 5 READ and well formed, slot 6 READ with the
number of slot 5, slot 7 with state code 5; the number in slot 2 is its own. -/
def retained : Memory :=
  ⟨[(slotAddr .s1 0, ⟨3, 0⟩), (slotAddr .s2 0, protect 7),
      (slotAddr .s2 6, protect 0x00040000), (slotAddr .s3 6, protect 0x00010000),
      (slotAddr .s4 0, protect 42), (slotAddr .s4 4, protect 0x00010000),
      (slotAddr .s4 6, protect 0x00010000), (slotAddr .s5 0, protect 41),
      (slotAddr .s5 4, protect 0x00010000), (slotAddr .s5 6, protect 0x00030000),
      (slotAddr .s6 0, protect 41), (slotAddr .s6 4, protect 0x00010000), (slotAddr .s6 6, protect 0x00030000),
      (slotAddr .s7 6, protect 0x00050000),
      (retentionAddr 0, protect 0x96C35A0F), (retentionAddr 1, protect 43)], 0⟩

/-- The header words of a slot of `retained` through the check. -/
def header (i : Slot) : List Checked := (List.range 7).map fun n => checkWord (retained.read (slotAddr i n))

set_option maxRecDepth 40000 in
theorem witness_ScanOfIntactMemory :
    (retained.wf ∧ markerIntact (retained.read (retentionAddr 0)) = true) ∧
    (anyBad (header .s0) = false ∧ (hi16 (dataAt (header .s0) 6)).toNat = 0) ∧ anyBad (header .s1) = true ∧
    (anyBad (header .s2) = false ∧ (hi16 (dataAt (header .s2) 6)).toNat = 4) ∧
    (anyBad (header .s3) = false ∧ (hi16 (dataAt (header .s3) 6)).toNat = 1 ∧
      malformed (header .s3) = true) ∧
    (anyBad (header .s4) = false ∧ (hi16 (dataAt (header .s4) 6)).toNat = 1 ∧
      malformed (header .s4) = false) ∧
    (anyBad (header .s5) = false ∧ (hi16 (dataAt (header .s5) 6)).toNat = 3 ∧
      malformed (header .s5) = false) ∧
    (anyBad (header .s6) = false ∧ malformed (header .s6) = false ∧
      dataAt (header .s6) 0 = dataAt (header .s5) 0) ∧
    anyBad (header .s7) = false ∧ (hi16 (dataAt (header .s7) 6)).toNat = 5 := by
  decide

theorem witness_FrameRoundTrip : ∃ (i : Instr) (kind : Byte) (r : Req),
    i.wf = true ∧ requestParts i = some (kind, r) :=
  ⟨.writeRes { link := .a, tag := 255, selector := 8, field := 7, words := { w13 := 0xFFFF } }, _, _, by decide,
    rfl⟩

set_option maxRecDepth 40000 in
theorem witness_FrameCheckAndLayout : ∃ (bytes : List Byte) (n b : Nat),
    bytes.length = 32 ∧ framePasses bytes = true ∧ n < 32 ∧ b < 8 :=
  ⟨frameOf 1 0 0 0 {}, 31, 7, by decide, by decide, by decide, by decide⟩

theorem witness_TransferStartShiftsResponse :
    (∃ s : State, s.phase = .running) ∧ ∃ s : State, s.phase ≠ .running :=
  ⟨⟨up, rfl⟩, ⟨.reset, by decide⟩⟩

/-- A transfer on the P-link that is ignored as a whole. -/
def ignoring : State := upWith { port .up 0 0 with transfer := .ignored }

theorem witness_AbortedAndIgnoredTransfers :
    (∃ s : State, s.Serving .p) ∧ (∃ s : State, s.phase ≠ .running) ∧
    ∃ (c : Instr) (kind : Byte) (r : Req) (s : State), c.wf = true ∧ requestParts c = some (kind, r) ∧
      s.phase = .running ∧ (s.port r.link).transfer = .ignored :=
  ⟨⟨up, rfl, by decide⟩, ⟨.reset, by decide⟩, ⟨.nop { link := .p }, _, _, ignoring, by decide, rfl, rfl, rfl⟩⟩

theorem witness_ArrivalMovesLink :
    ((upWith .reset).port .p).state = .down ∧
    (((upWith (port .joining 1 2)).port .p).state = .joining ∧ ((upWith (port .joining 1 2)).port .p).join < 2) ∧
    (((upWith (port .joining 2 0)).port .p).state = .joining ∧ ((upWith (port .joining 2 0)).port .p).join = 2) ∧
    (up.port .p).state = .up ∧
    ((upWith .reset).arrive .p).linkState .p ≠ ((upWith .reset).port .p).state := by
  decide

theorem witness_RequestChecks :
    (∃ (c : Instr) (kind : Byte) (r : Req) (s : State), requestParts c = some (kind, r) ∧ s.Serving r.link ∧
      admits kind r.link = false) ∧
    (∃ p ∈ postings, ∃ (r : Req) (s : State), s.Serving r.link ∧ admits p.2.1 r.link = true ∧
      (s.arrive r.link).linkState r.link = .joining) ∧
    (∃ (r : Req) (s u : State), s.Takes 1 r u) ∧
    ∃ (kind : Byte) (r : Req), admits kind r.link = true :=
  ⟨⟨.postDb { link := .m }, _, _, up, rfl, ⟨rfl, by decide⟩, by decide⟩,
    ⟨_, List.mem_cons_self, { link := .p }, upWith (port .joining 1 0), ⟨rfl, by decide⟩, by decide, by decide⟩,
    ⟨{ link := .p }, up, _, takes _ _ _ (by decide)⟩, ⟨1, { link := .p }, by decide⟩⟩

theorem witness_CheckFailureCounts :
    ((upWith .reset).Serving .p ∧ ((upWith .reset).port .p).state = .down) ∧
    ((upWith (port .up 0 1)).Serving .p ∧ ((upWith (port .up 0 1)).port .p).state ≠ .down ∧
      ((upWith (port .up 0 1)).port .p).fail = 1) ∧
    (upWith (port .joining 1 2)).Serving .p ∧ ((upWith (port .joining 1 2)).port .p).state ≠ .down ∧
      ((upWith (port .joining 1 2)).port .p).fail = 2 := by
  decide

theorem witness_LinkTimeoutTakesDown :
    (up.phase = .running ∧ (later 100 up).runOver ((later 100 up).port .p).timeout = true) ∧
    (later 99 up).runOver ((later 99 up).port .p).timeout = false ∧
    (upWith .reset).phase = .running ∧ (upWith .reset).runOver ((upWith .reset).port .p).timeout = false := by
  decide

theorem witness_PostingsClassify : ∃ p ∈ postings, ∃ (r : Req) (s u : State), s.Takes p.2.1 r u :=
  ⟨_, List.mem_cons_self, { link := .p }, up, _, takes _ _ _ (by decide)⟩

theorem witness_PostingsHandOn : ∃ p ∈ postings, ∃ (r : Req) (s u : State), s.Takes p.2.1 r u :=
  ⟨_, List.mem_cons_self, { link := .p, field := 1 }, holding .db (valid 2400), _, takes _ _ _ (by decide)⟩

theorem witness_AgesAndSubstitution :
    let held := later 100 (holding .gs (valid 500))
    let stale := later 500 (holding .gs { valid 500 with cls := .stale, fresh := none })
    let bad := later 500 (holding .gs { valid 500 with cls := .fault, fresh := none, hold := some ⟨7, 500⟩ })
    (held.phase = .running ∧ held.runOver (held.posted.get .gs).fresh = true ∧
      (held.posted.get .gs).cls = .valid) ∧
    (stale.runOver (stale.posted.get .gs).hold = true ∧ (stale.posted.get .gs).cls = .stale) ∧
    (bad.runOver (bad.posted.get .gs).goodHold = true ∧ (bad.posted.get .gs).cls = .fault) ∧
    ((later 500 held).runOver (held.posted.get .gs).goodHold = true ∧ (held.posted.get .gs).cls = .valid) ∧
    (later 99 held).runOver (held.posted.get .gs).fresh = false ∧
    bad.runOver (bad.posted.get .gs).hold = false ∧ up.runOver (up.posted.get .gs).goodHold = false := by
  decide

theorem witness_MasksAndClears :
    (∃ (r : Req) (s u : State), s.Takes 65 r u ∧ r.selector.toNat = 63) ∧
    (∃ (r : Req) (s u : State), s.Takes 65 r u ∧ r.selector.toNat = 64) ∧
    (∃ (r : Req) (s u : State), s.Takes 66 r u ∧ r.selector.toNat = 63) ∧
    (∃ (r : Req) (s u : State), s.Takes 66 r u ∧ r.selector.toNat = 64) ∧
    ∃ (r : Req) (s : State), s.Serving r.link ∧ r.link ≠ .m :=
  ⟨⟨{ link := .m, selector := 63 }, up, _, takes _ _ _ (by decide), rfl⟩,
    ⟨{ link := .m, selector := 64 }, up, _, takes _ _ _ (by decide), rfl⟩,
    ⟨{ link := .m, selector := 63 }, up, _, takes _ _ _ (by decide), rfl⟩,
    ⟨{ link := .m, selector := 64 }, up, _, takes _ _ _ (by decide), rfl⟩,
    ⟨{ link := .a }, up, ⟨rfl, by decide⟩, by decide⟩⟩

/-- `up` with a penalty holder set. -/
def penalised (x : LinkSet) : State := demanding { up.demand with penalty := x }

/-- `up` with an emergency holder set. -/
def emergency (x : LinkSet) : State := demanding { up.demand with emergency := x }

theorem witness_PenaltyRequests :
    (∃ (r : Req) (s u : State), s.Takes 32 r u ∧ u.demand.penalty.has r.link = true) ∧
    (∃ (r : Req) (s u : State), s.Takes 32 r u ∧ u.demand.penalty.has r.link = false ∧
      u.demand.penalty.any = true) ∧
    (∃ (r : Req) (s u : State), s.Takes 32 r u ∧ u.demand.penalty.any = false) ∧
    (∃ (r : Req) (s u : State), s.Takes 33 r u ∧ u.demand.penalty.has r.link = false) ∧
    (∃ (r : Req) (s u : State), s.Takes 33 r u ∧ u.demand.penalty.has r.link = true ∧
      (u.demand.penalty.put r.link false).any = true) ∧
    ∃ (r : Req) (s u : State), s.Takes 33 r u ∧ u.demand.penalty.has r.link = true ∧
      (u.demand.penalty.put r.link false).any = false :=
  ⟨⟨{ link := .p }, penalised ⟨true, false, false⟩, _, takes _ _ _ (by decide), by decide⟩,
    ⟨{ link := .a }, penalised ⟨true, false, false⟩, _, takes _ _ _ (by decide), by decide, by decide⟩,
    ⟨{ link := .a }, up, _, takes _ _ _ (by decide), by decide⟩,
    ⟨{ link := .a }, up, _, takes _ _ _ (by decide), by decide⟩,
    ⟨{ link := .p }, penalised ⟨true, true, false⟩, _, takes _ _ _ (by decide), by decide, by decide⟩,
    ⟨{ link := .p }, penalised ⟨true, false, false⟩, _, takes _ _ _ (by decide), by decide, by decide⟩⟩

theorem witness_PenaltyReset :
    (∃ (r : Req) (s u : State), s.Takes 34 r u ∧ u.speed.standstill = true ∧ u.demand.penalty.any = false) ∧
    (∃ (r : Req) (s u : State), s.Takes 34 r u ∧ u.speed.standstill = true ∧ u.demand.penalty.any = true) ∧
    (∃ (r : Req) (s u : State), s.Takes 34 r u ∧ u.speed.standstill = false) ∧
    ∃ (r : Req) (s : State), s.Serving r.link ∧ r.link ≠ .m :=
  ⟨⟨{ link := .m }, rest, _, takes _ _ _ (by decide), by decide, by decide⟩,
    ⟨{ link := .m }, rest.setDemand { up.demand with penalty := ⟨true, false, false⟩ }, _,
      takes _ _ _ (by decide), by decide, by decide⟩,
    ⟨{ link := .m }, up, _, takes _ _ _ (by decide), by decide⟩,
    ⟨{ link := .p }, up, ⟨rfl, by decide⟩, by decide⟩⟩

theorem witness_EmergencySet :
    (∃ (r : Req) (s u : State), s.Takes 35 r u ∧ u.demand.emergency.has r.link = true) ∧
    (∃ (r : Req) (s u : State), s.Takes 35 r u ∧ u.demand.emergency.has r.link = false ∧
      u.demand.emergency.any = true) ∧
    ∃ (r : Req) (s u : State), s.Takes 35 r u ∧ u.demand.emergency.any = false :=
  ⟨⟨{ link := .a }, emergency ⟨false, true, false⟩, _, takes _ _ _ (by decide), by decide⟩,
    ⟨{ link := .m }, emergency ⟨false, true, false⟩, _, takes _ _ _ (by decide), by decide, by decide⟩,
    ⟨{ link := .m }, up, _, takes _ _ _ (by decide), by decide⟩⟩

/-- `rest` with an emergency holder set. -/
def restEmergency (x : LinkSet) : State := rest.setDemand { up.demand with emergency := x }

theorem witness_EmergencyClear :
    (∃ (r : Req) (s u : State), s.Takes 36 r u ∧ u.speed.standstill = false) ∧
    (∃ (r : Req) (s u : State), s.Takes 36 r u ∧ u.speed.standstill = true ∧
      u.demand.emergency.has r.link = false) ∧
    (∃ (r : Req) (s u : State), s.Takes 36 r u ∧ u.speed.standstill = true ∧
      u.demand.emergency.has r.link = true ∧ (u.demand.emergency.put r.link false).any = true) ∧
    ∃ (r : Req) (s u : State), s.Takes 36 r u ∧ u.speed.standstill = true ∧
      u.demand.emergency.has r.link = true ∧ (u.demand.emergency.put r.link false).any = false :=
  ⟨⟨{ link := .a }, up, _, takes _ _ _ (by decide), by decide⟩,
    ⟨{ link := .a }, rest, _, takes _ _ _ (by decide), by decide, by decide⟩,
    ⟨{ link := .a }, restEmergency ⟨false, true, true⟩, _, takes _ _ _ (by decide), by decide, by decide,
      by decide⟩,
    ⟨{ link := .a }, restEmergency ⟨false, true, false⟩, _, takes _ _ _ (by decide), by decide, by decide,
      by decide⟩⟩

theorem witness_ModeRequest :
    (∃ (r : Req) (s u : State), s.Takes 37 r u ∧ r.selector ≠ 2) ∧
    (∃ (r : Req) (s u : State), s.Takes 37 r u ∧ r.selector = 2 ∧ r.words.w1.toNat = 2) ∧
    (∃ (r : Req) (s u : State), s.Takes 37 r u ∧ r.selector = 2 ∧ r.words.w1.toNat = 1 ∧
      u.demand.maint.has r.link ≠ decide (r.words.w1 = 1)) ∧
    (∃ (r : Req) (s u : State), s.Takes 37 r u ∧ r.selector = 2 ∧ r.words.w1.toNat = 0 ∧
      u.demand.maint.has r.link = decide (r.words.w1 = 1)) ∧
    ∃ (r : Req) (s : State), s.Serving r.link ∧ r.link = .m :=
  ⟨⟨{ link := .p, selector := 1 }, up, _, takes _ _ _ (by decide), by decide⟩,
    ⟨{ link := .p, selector := 2, words := { w1 := 2 } }, up, _, takes _ _ _ (by decide), rfl, rfl⟩,
    ⟨{ link := .p, selector := 2, words := { w1 := 1 } }, up, _, takes _ _ _ (by decide), rfl, rfl, by decide⟩,
    ⟨{ link := .p, selector := 2 }, up, _, takes _ _ _ (by decide), rfl, rfl, by decide⟩,
    ⟨{ link := .m }, up, ⟨rfl, by decide⟩, rfl⟩⟩

/-- A WRITE_RES frame. -/
def writing (l : LinkId) (code field : Byte) (v : Half) : Req :=
  { link := l, selector := code, field := field, words := { w1 := v } }

theorem witness_WriteResChecks :
    (∃ (r : Req) (s u : State), s.Takes 48 r u ∧ r.selector = 0) ∧
    (∃ (r : Req) (s u : State), s.Takes 48 r u ∧ r.selector.toNat = 9) ∧
    (∃ (r : Req) (s u : State), s.Takes 48 r u ∧ r.field.toNat = 8) ∧
    (∃ (r : Req) (s u : State), s.Takes 48 r u ∧ resourceOf r.selector.toNat = some (.electric .a1) ∧
      fieldOf r.field.toNat = some .members ∧ r.link ≠ .m) ∧
    (∃ (r : Req) (s u : State), s.Takes 48 r u ∧ resourceOf r.selector.toNat = some (.air .t2) ∧
      fieldOf r.field.toNat = some .ceiling ∧ (u.res.air.get .t2).members.has r.link = false ∧ r.link ≠ .m) ∧
    (∃ (r : Req) (s u : State), s.Takes 48 r u ∧ resourceOf r.selector.toNat = some (.electric .a1) ∧
      fieldOf r.field.toNat = some .ceiling ∧ (u.res.electric.get .a1).members.has r.link = true ∧
      r.words.w1.toNat = 1001) ∧
    ∃ (r : Req) (s u : State), s.Takes 48 r u ∧ resourceOf r.selector.toNat = some (.air .t1) ∧
      fieldOf r.field.toNat = some .ceiling ∧ r.link = .m ∧ r.words.w1.toNat = u.params.pServiceMax ∧
      (u.res.air.get .t1).write .ceiling r.words.w1.toNat = u.res.air.get .t1 :=
  ⟨⟨writing .m 0 0 0, up, _, takes _ _ _ (by decide), rfl⟩,
    ⟨writing .m 9 0 0, up, _, takes _ _ _ (by decide), rfl⟩,
    ⟨writing .m 1 8 0, up, _, takes _ _ _ (by decide), rfl⟩,
    ⟨writing .p 1 0 7, up, _, takes _ _ _ (by decide), rfl, rfl, by decide⟩,
    ⟨writing .p 8 1 100, up, _, takes _ _ _ (by decide), rfl, rfl, by decide, by decide⟩,
    ⟨writing .p 1 1 1001, up, _, takes _ _ _ (by decide), rfl, rfl, by decide, rfl⟩,
    ⟨writing .m 7 1 380, up, _, takes _ _ _ (by decide), rfl, rfl, rfl, rfl, by decide⟩⟩

theorem witness_WriteResEffect :
    (∃ (r : Req) (s u : State), s.Takes 48 r u ∧ fieldOf r.field.toNat = some .ceiling ∧
      resourceOf r.selector.toNat = some (.electric .a6) ∧ u.mayWrite r.link (.electric .a6) .ceiling = true ∧
      u.fieldOk (.electric .a6) .ceiling r.words.w1.toNat = true ∧
      (u.res.electric.get .a6).write .ceiling r.words.w1.toNat ≠ u.res.electric.get .a6) ∧
    ∃ (r : Req) (s u : State), s.Takes 48 r u ∧ fieldOf r.field.toNat = some .ceiling ∧
      resourceOf r.selector.toNat = some (.air .t1) ∧ u.mayWrite r.link (.air .t1) .ceiling = true ∧
      u.fieldOk (.air .t1) .ceiling r.words.w1.toNat = true ∧
      (u.res.air.get .t1).write .ceiling r.words.w1.toNat ≠ u.res.air.get .t1 :=
  ⟨⟨writing .p 6 1 0, up, _, takes _ _ _ (by decide), rfl, rfl, by decide, by decide, by decide⟩,
    ⟨writing .a 7 1 100, up, _, takes _ _ _ (by decide), rfl, rfl, by decide, by decide, by decide⟩⟩

theorem witness_ResourceReads :
    (∃ (r : Req) (s u : State), s.Takes 49 r u ∧ r.selector.toNat = axleNo .a6) ∧
    (∃ (r : Req) (s u : State), s.Takes 49 r u ∧ r.selector.toNat = 6 + truckNo .t2) ∧
    (∃ (r : Req) (s u : State), s.Takes 49 r u ∧ r.selector = 0) ∧
    ∃ (r : Req) (s u : State), s.Takes 49 r u ∧ r.selector.toNat = 9 :=
  ⟨⟨{ link := .p, selector := 6 }, up, _, takes _ _ _ (by decide), rfl⟩,
    ⟨{ link := .p, selector := 8 }, up, _, takes _ _ _ (by decide), rfl⟩,
    ⟨{ link := .p }, up, _, takes _ _ _ (by decide), rfl⟩,
    ⟨{ link := .p, selector := 9 }, up, _, takes _ _ _ (by decide), rfl⟩⟩

/-- Items with caps 128 and 803 (Section 4.11). -/
def caps : List Item62 := [⟨1, 128⟩, ⟨2, 803⟩]

theorem witness_WaterFilling :
    (caps.map Item62.no).Nodup ∧
    (shareOf (waterFill 480 caps) 1).amount + 1 < (shareOf (waterFill 480 caps) 2).amount ∧
    (shareOf (waterFill 101 caps) 1).atCap = false ∧ (shareOf (waterFill 101 caps) 2).atCap = false := by
  decide

theorem witness_ElectricComputation : section411.phase = .running ∧
    (later 10 section411).runOver section411.blend.period = true ∧
    (section411.res.electric.get .a5).state = .off := by
  decide

theorem witness_AirComputation : section411.phase = .running ∧
    (later 10 section411).runOver section411.blend.period = true := by
  decide

theorem witness_ComputationRecord :
    let rec' := (run (later 10 section411) .blendPeriodExpiry).blend.record
    (section411.phase = .running ∧ (later 10 section411).runOver section411.blend.period = true ∧ rec'.residual ≤ section411.params.shortThr) ∧
    rec'.trucks.t1.ramping = false ∧ section411.posted.ap.t1.cls = .valid ∧ rec'.trucks.t2.ramping = true := by
  decide

/-- A computation with a demand that nothing can carry: all resources OFF. -/
def short : State :=
  { up with
    demand := { up.demand with dTot := 3000, dBlend := 3000 }
    blend := { up.blend with period := some ⟨0, 10⟩ }
    posted := { up.posted with ap := ⟨valid 100, { valid 100 with cls := .stale }⟩ } }

theorem witness_ComputationRecord_short :
    let rec' := (run (later 10 short) .blendPeriodExpiry).blend.record
    short.params.shortThr < rec'.residual ∧
    (rec'.trucks.t1.ramping = false ∧ rec'.trucks.t1.command + short.params.devTol < short.posted.ap.t1.lastValue) ∧
    rec'.trucks.t2.ramping = false ∧ short.posted.ap.t2.cls = .stale := by
  decide

/-- A shortfall timer started at 0, and truck 1's deviation timer with 7 ms accumulated. -/
def watching (now : Stamp) : State :=
  later now (up.setBlend { up.blend with
    short := some ⟨0, 1000⟩, dev := up.blend.dev.set .t1 ⟨.running 0 7, false⟩ })

theorem witness_BlendTimerExpiries :
    ((watching 1000).phase = .running ∧ (watching 1000).runOver (watching 1000).blend.short = true) ∧
    (watching 999).runOver (watching 999).blend.short = false ∧ up.runOver up.blend.short = false ∧
    up.runOver up.blend.period = false ∧
    (∀ n, ((watching n).blend.dev.get .t1).run = .running 0 7) ∧
    (watching 993).params.devTime ≤ 7 + ((watching 993).now - 0).toNat ∧
    7 + ((watching 992).now - 0).toNat < (watching 992).params.devTime ∧
    ∀ since acc, (up.blend.dev.get .t1).run ≠ .running since acc :=
  ⟨by decide, by decide, by decide, by decide, fun _ => rfl, by decide, by decide,
    fun _ _ => DevRun.noConfusion⟩

theorem witness_CutsTakeTheLowestBound :
    (section411.blend.record.axles.get .a1).command ≤ (section411.blend.record.axles.get .a1).target ∧
    (section411.blend.record.axles.get .a1).ramping = decide ((section411.blend.record.axles.get .a1).command <
      (section411.blend.record.axles.get .a1).target) ∧
    (section411.blend.record.trucks.get .t2).command ≤ (section411.blend.record.trucks.get .t2).target := by
  decide

theorem witness_TachSamples : (up.phase = .running ∧ (up.tach.get .a1).sampled = false) ∧
    (∃ x : TachInput, x.sampled = true ∧ x.qual = none) ∧
    (∃ x : TachInput, x.sampled = true ∧ x.qual = some ⟨5, none⟩) ∧
    ∃ x : TachInput, x.sampled = true ∧ x.level = false ∧ x.qual = some ⟨5, some true⟩ ∧ x.noise = 255 :=
  ⟨by decide, ⟨⟨true, true, none, 0⟩, rfl, rfl⟩, ⟨⟨true, true, some ⟨5, none⟩, 0⟩, rfl, rfl⟩,
    ⟨⟨false, true, some ⟨5, some true⟩, 255⟩, rfl, rfl, rfl, rfl⟩⟩

theorem witness_WindowExpirySteps :
    (∃ s : State, s.phase = .running ∧ s.runOver (s.speed.axles.get .a1).window = true) ∧
    (∃ s : State, s.phase = .running ∧ s.runOver (s.speed.axles.get .a1).window = false) ∧
    (later 19 (edges .reset 0)).runOver ((later 19 (edges .reset 0)).speed.axles.get .a1).window = false :=
  ⟨⟨edges .reset 0, rfl, by decide⟩, ⟨up, rfl, rfl⟩, by decide⟩

/-- The case that an axle's window comes to. -/
def windowCase (x : SpeedAxle) : SpeedCase := ((edges x 9072000).windowSpeed .a1).1

theorem witness_SpeedAtWindow :
    windowCase { SpeedAxle.reset with edges := 2, firstEdge := 1, lastEdge := 2 } = .normal ∧
    windowCase { SpeedAxle.reset with edges := 1, history := [8932140, 9000000] } = .few ∧
    windowCase { SpeedAxle.reset with zeroDeclared := true } = .zero ∧
    windowCase .reset = .unknown ∧ windowCase { SpeedAxle.reset with openMark := true } = .openTach ∧
    (((edges { SpeedAxle.reset with zeroDeclared := true, prevTime := some 9, prevCls := .valid } 10).windowSpeed
      .a1).2.speed.axles.get .a1).cls = .valid := by
  decide

theorem witness_ReferenceSpeed :
    (∃ s : State, s.posted.gs.cls = .valid) ∧
    (∃ s : State, ¬(s.posted.gs.cls = .valid ∨ s.posted.gs.cls = .clamped) ∧ s.reference .a1 ∧
      ∀ j, s.reference j → (s.speed.axles.get j).speed ≤ (s.speed.axles.get .a1).speed) ∧
    ∃ s : State, ¬(s.posted.gs.cls = .valid ∨ s.posted.gs.cls = .clamped) ∧ ∀ k, ¬s.reference k := by
  refine ⟨⟨holding .gs (valid 6820), rfl⟩,
    ⟨sliding (slider .normal) (turning 900), by decide, ⟨rfl, .inl rfl⟩, fun j _ => ?_⟩,
    ⟨up, by decide, fun k h => ?_⟩⟩
  · cases j <;> decide
  · exact absurd h.1 (by cases k <;> decide)

/-- Axles 1 and 2 VALID, axle 1 at a speed, with V_ref and the standstill flag given. -/
def turningPair (v vref : Nat) (flag : Bool) : State :=
  up.setSpeed { up.speed with
    axles := (up.speed.axles.set .a1 (turning v)).set .a2 (turning 0), vref := vref, standstill := flag }

theorem witness_OpenTachAndStandstill :
    (∃ (s : State) (c : SpeedCase), c = .zero ∧ (s.speed.axles.get .a2).speed = 0 ∧
      s.params.openSpeed ≤ s.speed.vref ∧ (s.speed.axles.get .a2).openMark = false) ∧
    (∃ s : State, s.restCondition ∧ s.speed.standstill = false ∧ s.speed.still = none) ∧
    (∃ s : State, s.restCondition ∧ s.speed.standstill = true) ∧
    (∃ s : State, ¬s.restCondition ∧ s.speed.standstill = true ∧ (s.speed.axles.get .a1).cls = .valid ∧
      0 < (s.speed.axles.get .a1).speed) ∧
    ∃ s : State, ¬s.restCondition ∧ s.speed.standstill = false := by
  have still : ∀ f, (turningPair 0 0 f).restCondition := by
    intro f
    refine ⟨by cases f <;> decide, fun k => ?_, rfl⟩
    cases k <;> cases f <;> decide
  have moves : ∀ v f, ¬(turningPair v 1000 f).restCondition := fun v f h => absurd h.2.2 (by
    show ¬(1000 = 0)
    decide)
  exact ⟨⟨turningPair 0 1000 false, .zero, rfl, rfl, by decide, rfl⟩,
    ⟨turningPair 0 0 false, still _, rfl, rfl⟩, ⟨turningPair 0 0 true, still _, rfl⟩,
    ⟨turningPair 5 1000 true, moves _ _, rfl, rfl, by decide⟩, ⟨turningPair 5 1000 false, moves _ _, rfl⟩⟩

/-- Axle 1 with its zero and open-tach timers started at 0, and the standstill timer with them. -/
def resting (c : Cls) (now : Stamp) : State :=
  later now ((edges { SpeedAxle.reset with zero := some ⟨0, 1500⟩, openTimer := some ⟨0, 3000⟩, cls := c } 0).setSpeed
    { (edges { SpeedAxle.reset with zero := some ⟨0, 1500⟩, openTimer := some ⟨0, 3000⟩, cls := c } 0).speed with
      still := some ⟨0, 2000⟩ })

theorem witness_SpeedTimerExpiries :
    let x := fun s : State => s.speed.axles.get .a1
    (∀ c, (resting c 0).phase = .running) ∧
    (resting .valid 1500).runOver (x (resting .valid 1500)).zero = true ∧
    (resting .valid 1499).runOver (x (resting .valid 1499)).zero = false ∧
    ((resting .valid 3000).runOver (x (resting .valid 3000)).openTimer = true ∧
      (x (resting .valid 3000)).cls ≠ .fault) ∧
    ((resting .fault 3000).runOver (x (resting .fault 3000)).openTimer = true ∧
      (x (resting .fault 3000)).cls = .fault) ∧
    (resting .valid 2999).runOver (x (resting .valid 2999)).openTimer = false ∧
    (resting .valid 2000).runOver (resting .valid 2000).speed.still = true ∧
    (resting .valid 1999).runOver (resting .valid 1999).speed.still = false := by
  refine ⟨fun c => rfl, ?_⟩
  decide

/-- A case of the comparison: axle 1 in a slide state at a speed below V_ref 1000. -/
def compared (x : SlideState) (v : Nat) : State := sliding (slider x) (turning v)

theorem witness_SlideTransitions :
    (∃ s : State, (s.slide.axles.get .a1).state = .lockout) ∧
    (∃ s : State, (s.slide.axles.get .a1).state ≠ .lockout ∧ (s.speed.axles.get .a1).cls ≠ .valid) ∧
    (∃ s : State, (s.slide.axles.get .a1).state ≠ .lockout ∧ (s.speed.axles.get .a1).cls = .valid ∧
      s.speed.vref = s.params.vMin - 1) ∧
    (∀ x v, ((compared x v).speed.axles.get .a1).cls = .valid ∧
      ¬((compared x v).speed.vref < (compared x v).params.vMin ∨ (compared x v).speed.standstill = true)) ∧
    ((compared .normal 920).creepNow .a1 = 80 ∧ (compared .normal 921).creepNow .a1 = 79) ∧
    ((compared .suspect 850).creepNow .a1 = 150 ∧ (compared .suspect 961).creepNow .a1 = 39) ∧
    ((compared .sliding 960).creepNow .a1 = 40 ∧ (compared .sliding 961).creepNow .a1 = 39) ∧
    ((compared .recovering 850).creepNow .a1 = 150 ∧ (compared .recovering 960).creepNow .a1 = 40) ∧
    (compared .indeterminate 920).creepNow .a1 = 80 ∧
    ∃ last, ((sliding { slider .recovering with lastEval := some 7 } (turning 960)).slide.axles.get .a1).lastEval =
      some last :=
  ⟨⟨compared .lockout 0, rfl⟩, ⟨sliding (slider .sliding) { turning 0 with cls := .fault }, by decide, by decide⟩,
    ⟨(compared .sliding 0).setSpeed { (compared .sliding 0).speed with vref := 299 }, by decide, rfl, rfl⟩,
    fun _ _ => ⟨rfl, fun h => by
      rcases h with h | h
      · exact absurd h (show ¬(1000 < 300) by decide)
      · exact Bool.noConfusion h⟩,
    by decide, by decide, by decide, by decide, by decide, ⟨7, rfl⟩⟩

/-- One onset takes axle 1 to LOCKOUT, with LOCK_COUNT at its least. -/
def lastOnset : State :=
  (compared .suspect 0).setParams { (compared .suspect 0).params with lockCount := 1 }

/-- The judgement of axle 1. -/
def judged (s : State) : Judged :=
  (s.slide.axles.get .a1).judge s.now s.params
    (comparisonOf (s.speed.axles.get .a1).cls (s.speed.axles.get .a1).speed s.speed.vref s.params.vMin
      s.speed.standstill) (s.speed.axles.get .a1).cls (s.speed.axles.get .a1).decel (s.command .a1)

/-- Truck 1 in an action, its dump timer running in DUMP. -/
def acting (a : Action) (s : State) : State :=
  s.setSlide { s.slide with
    trucks := s.slide.trucks.set .t1 ⟨a, 0, 0, if a = .dump then some ⟨0, 3000⟩ else none, false⟩ }

/-- The action of truck 1 after an evaluation of axle 1. -/
def actionAfter (s : State) : Action := ((s.evaluate .a1).slide.trucks.get .t1).action

theorem witness_ActionSettled :
    actionAfter (acting .none (compared .normal 900)) = .keep ∧
    actionAfter (acting .none (compared .suspect 0)) = .dump ∧
    actionAfter (acting .keep (compared .suspect 0)) = .dump ∧
    actionAfter (acting .keep (compared .suspect 990)) = .none ∧
    actionAfter (acting .dump (compared .sliding 990)) = .keep ∧
    actionAfter (acting .dump
      ((compared .sliding 0).setSpeed { (compared .sliding 0).speed with vref := 299 })) = .none := by
  decide

theorem witness_SlideConsequences :
    (((compared .suspect 0).evaluate .a1).slide.axles.get .a1).history =
      (compared .suspect 0).keptHistory .a1 ++ [(compared .suspect 0).now] ∧
    (((compared .suspect 0).evaluate .a1).slide.trucks.get .t1).action = .dump ∧
    (((compared .suspect 0).evaluate .a1).slide.axles.get .a1).limit < 1000 ∧
    (((compared .normal 990).evaluate .a1).slide.axles.get .a1).state = .normal ∧
    (((compared .normal 900).evaluate .a1).slide.trucks.get .t1).action = .keep ∧
    (judged lastOnset).axle.state = .lockout := by
  decide

/-- Truck 1 dumping with axle 1 in a slide state. -/
def dumping (x : SlideState) : State :=
  up.setSlide ⟨up.slide.axles.set .a1 (slider x), ⟨⟨.dump, 0, 0, some ⟨0, 3000⟩, false⟩, up.slide.trucks.t2⟩⟩

/-- Axle 1 recovers 1200 ms into a dump, and the time stays (Table 6-4); where the expiry is due but not yet
taken, the timer stops short of DUMP_MAX and the mark stays clear (R123; log 22). -/
theorem test_leavingDump_time :
    ((later 1200 (dumping .recovering)).rederiveAction .t1).slide.trucks.get .t1 = ⟨.keep, 0, 1200, none, false⟩ ∧
    ((later 3000 (dumping .recovering)).rederiveAction .t1).slide.trucks.get .t1 = ⟨.keep, 0, 2999, none, false⟩ := by
  decide

theorem witness_DumpTimerExpires :
    (up.phase = .running ∧ (up.slide.trucks.get .t1).dumpRun = none) ∧
    (3000 ≤ ((dumping .sliding).slide.trucks.get .t1).dumpAcc + ((later 3000 (dumping .sliding)).now - 0).toNat ∧
      ((dumping .sliding).slide.trucks.get .t1).dumpAcc + ((later 2999 (dumping .sliding)).now - 0).toNat
        < 3000) ∧
    ((dumping .sliding).phase = .running ∧ ((dumping .sliding).slide.trucks.get .t1).dumpRun = some ⟨0, 3000⟩ ∧
      ((dumping .sliding).slide.trucks.get .t1).action = .dump ∧
      (dumping .sliding).anySlide .t1 [.suspect, .recovering, .sliding] = true) ∧
    (dumping .normal).anySlide .t1 [.suspect, .recovering, .sliding] = false := by
  decide

/-- `rest` with axle 6 in LOCKOUT. -/
def restLocked : State :=
  rest.setSlide { up.slide with axles := up.slide.axles.set .a6 { slider .lockout with limit := 0 } }

theorem witness_ClearLockout :
    (∃ (r : Req) (s u : State), s.Takes 70 r u ∧ r.selector = 0) ∧
    (∃ (r : Req) (s u : State), s.Takes 70 r u ∧ r.selector.toNat = 7) ∧
    (∃ (r : Req) (s u : State), s.Takes 70 r u ∧ r.selector.toNat = axleNo .a6 ∧ u.speed.standstill = false) ∧
    (∃ (r : Req) (s u : State), s.Takes 70 r u ∧ r.selector.toNat = axleNo .a6 ∧ u.speed.standstill = true ∧
      (u.slide.axles.get .a6).state ≠ .lockout) ∧
    ∃ (r : Req) (s u : State), s.Takes 70 r u ∧ r.selector.toNat = axleNo .a6 ∧ u.speed.standstill = true ∧
      (u.slide.axles.get .a6).state = .lockout ∧
      u.actionFor (truckOf .a6) = (u.slide.trucks.get (truckOf .a6)).action :=
  ⟨⟨{ link := .m }, rest, _, takes _ _ _ (by decide), rfl⟩,
    ⟨{ link := .m, selector := 7 }, rest, _, takes _ _ _ (by decide), rfl⟩,
    ⟨{ link := .m, selector := 6 }, up, _, takes _ _ _ (by decide), rfl, by decide⟩,
    ⟨{ link := .m, selector := 6 }, rest, _, takes _ _ _ (by decide), rfl, by decide, by decide⟩,
    ⟨{ link := .m, selector := 6 }, restLocked, _, takes _ _ _ (by decide), rfl, by decide, by decide, by decide⟩⟩

theorem defaults_legal : Params.Legal {} := by
  intro i
  rcases i with _ | _ | _ | _ | _ | _ | _ | ⟨_ | _⟩ | ⟨_ | _⟩ | _ | _ | _ | _ | _ | _ | _ |
    ⟨_ | _ | _ | _ | _ | _⟩ | _ | _ | _ | _ | _ | _ | _ | _ | _ | _ | _ | _ | _ | _ | _ | _ | _ | _ | _ | _ |
    _ | _ | _ | _ | _ | ⟨_ | _ | _⟩ <;> rfl

theorem witness_StatusReads :
    (∀ n ∈ [0, 1, 2, 3, 4], ∃ (r : Req) (s u : State), s.Takes 50 r u ∧ r.selector.toNat = n) ∧
    (∀ n ∈ [0, 1, 2, 3], ∃ (r : Req) (s u : State), s.Takes 51 r u ∧ r.selector.toNat = n) ∧
    (∀ n ∈ [0, 6, 7], ∃ (r : Req) (s u : State), s.Takes 52 r u ∧ r.selector.toNat = n) ∧
    (∀ n ∈ [0, 51, 52], ∃ (r : Req) (s u : State), s.Takes 53 r u ∧ r.selector.toNat = n) ∧
    paramOf 51 = some (.linkTimeout .m) ∧ Params.Legal {} := by
  have reads : ∀ kind ∈ [50, 51, 52, 53], ∀ n < 256, ∃ (r : Req) (s u : State),
      s.Takes (BitVec.ofNat 8 kind) r u ∧ r.selector.toNat = n := by
    intro kind hk n hn
    refine ⟨{ link := .p, selector := BitVec.ofNat 8 n }, up, _, takes _ _ _ ?_, by simpa using hn⟩
    simp only [List.mem_cons, List.not_mem_nil, or_false] at hk
    rcases hk with rfl | rfl | rfl | rfl <;> rfl
  refine ⟨fun n hn => reads 50 (by decide) n ?_, fun n hn => reads 51 (by decide) n ?_,
    fun n hn => reads 52 (by decide) n ?_, fun n hn => reads 53 (by decide) n ?_, rfl, defaults_legal⟩
  iterate 4
    simp only [List.mem_cons, List.not_mem_nil, or_false] at hn
    omega

/-- A WRITE_PARAM frame. -/
def setting (id : Byte) (v : Half) : Req := { link := .m, selector := id, words := { w1 := v } }

theorem witness_ParameterWrites :
    (∃ (r : Req) (s u : State), s.Takes 64 r u ∧ r.selector = 0) ∧
    (∃ (r : Req) (s u : State), s.Takes 64 r u ∧ r.selector.toNat = 52) ∧
    (∃ (r : Req) (s u : State), s.Takes 64 r u ∧ r.selector.toNat = 48 ∧ u.speed.standstill = false) ∧
    (∃ (r : Req) (s u : State), s.Takes 64 r u ∧ r.selector.toNat = 49 ∧
      u.params.accepts (.linkTimeout .p) r.words.w1.toNat = false) ∧
    ∃ (r : Req) (s u : State), s.Takes 64 r u ∧ r.selector.toNat = 1 ∧ u.speed.standstill = true ∧
      u.params.accepts .tFresh r.words.w1.toNat = true :=
  ⟨⟨setting 0 0, rest, _, takes _ _ _ (by decide), rfl⟩, ⟨setting 52 0, rest, _, takes _ _ _ (by decide), rfl⟩,
    ⟨setting 48 0, up, _, takes _ _ _ (by decide), rfl, by decide⟩,
    ⟨setting 49 9, up, _, takes _ _ _ (by decide), rfl, by decide⟩,
    ⟨setting 1 20, rest, _, takes _ _ _ (by decide), rfl, by decide, by decide⟩⟩

theorem witness_ParameterEffects :
    (∃ (r : Req) (s u : State), s.Takes 64 r u ∧ paramOf r.selector.toNat = some .tFresh ∧
      u.speed.standstill = true ∧ u.params.accepts .tFresh r.words.w1.toNat = true) ∧
    ∃ (r : Req) (s u : State), s.Takes 64 r u ∧ paramOf r.selector.toNat = some (.linkTimeout .m) ∧
      needsStandstill (.linkTimeout .m) = false ∧ u.params.accepts (.linkTimeout .m) r.words.w1.toNat = true :=
  ⟨⟨setting 1 499, rest, _, takes _ _ _ (by decide), rfl, by decide, by decide⟩,
    ⟨setting 51 10, up, _, takes _ _ _ (by decide), rfl, rfl, by decide⟩⟩

/-- A counter frame. -/
def counting (n : Byte) (event : Half) : Req := { link := .m, selector := n, words := { w1 := event } }

theorem witness_CounterRequests :
    (up.counters.get .c3).count ≤ 65535 ∧
    (∃ (r : Req) (s u : State), s.Takes 96 r u ∧ r.selector.toNat = 4) ∧
    (∃ (r : Req) (s u : State), s.Takes 96 r u ∧ r.words.w1.toNat = 64) ∧
    (∃ (r : Req) (s u : State), s.Takes 96 r u ∧ r.selector.toNat = counterIndex .c3 ∧ r.words.w1.toNat = 63) ∧
    (∃ (r : Req) (s u : State), s.Takes 97 r u ∧ r.selector.toNat = 4) ∧
    (∃ (r : Req) (s u : State), s.Takes 97 r u ∧ r.selector.toNat = 3 ∧ u.demand.mode ≠ .maint) ∧
    (∃ (r : Req) (s u : State), s.Takes 97 r u ∧ r.selector.toNat = counterIndex .c3 ∧ u.demand.mode = .maint) ∧
    (∃ (r : Req) (s u : State), s.Takes 98 r u ∧ r.selector.toNat = 4) ∧
    ∃ (r : Req) (s u : State), s.Takes 98 r u ∧ r.selector.toNat = counterIndex .c3 :=
  ⟨by decide, ⟨counting 4 0, up, _, takes _ _ _ (by decide), rfl⟩,
    ⟨counting 0 64, up, _, takes _ _ _ (by decide), rfl⟩,
    ⟨counting 3 63, up, _, takes _ _ _ (by decide), rfl, rfl⟩,
    ⟨counting 4 0, up, _, takes _ _ _ (by decide), rfl⟩,
    ⟨counting 3 0, up, _, takes _ _ _ (by decide), rfl, by decide⟩,
    ⟨counting 3 0, inMaint, _, takes _ _ _ (by decide), rfl, by decide⟩,
    ⟨counting 4 0, up, _, takes _ _ _ (by decide), rfl⟩,
    ⟨counting 3 0, up, _, takes _ _ _ (by decide), rfl⟩⟩

/-- A diagnostic frame. -/
def diagnosing (area : Byte) (w1 w3 : Half) : Req :=
  { link := .m, selector := area, words := { w1 := w1, w3 := w3 } }

/-- In MAINT, with the selected slot 0 CAPTURING. -/
def maintCapturing : State := inMaint.setInc { up.inc with slots := up.inc.slots.set .s0 ⟨.capturing, some 1⟩ }

theorem witness_DiagnosticRequests :
    (∃ (r : Req) (s u : State), s.Takes 112 r u ∧ r.selector.toNat = 7 ∧ r.words.w1.toNat = 1030) ∧
    (∃ (r : Req) (s u : State), s.Takes 112 r u ∧ r.selector = 8 ∧ r.words.w1.toNat = 2) ∧
    (∃ (r : Req) (s u : State), s.Takes 112 r u ∧ r.selector = 8 ∧ r.words.w1.toNat = 3) ∧
    (∃ (r : Req) (s u : State), s.Takes 113 r u) ∧
    (∃ (r : Req) (s u : State), s.Takes 114 r u ∧ u.demand.mode ≠ .maint) ∧
    (∃ (r : Req) (s u : State), s.Takes 114 r u ∧ u.demand.mode = .maint ∧ u.diag.area = slotNo .s0 ∧
      (u.inc.slots.get .s0).state = .capturing) ∧
    (∃ (r : Req) (s u : State), s.Takes 114 r u ∧ u.demand.mode = .maint ∧ r.words.w3.toNat = 128) ∧
    ∃ (r : Req) (s u : State), s.Takes 114 r u ∧ u.demand.mode = .maint ∧
      (¬∃ i, u.diag.area = slotNo i ∧ (u.inc.slots.get i).state = .capturing) ∧ r.words.w3.toNat = 127 ∧
      u.mem.wf := by
  refine ⟨⟨diagnosing 7 1030 0, up, _, takes _ _ _ (by decide), rfl, rfl⟩,
    ⟨diagnosing 8 2 0, up, _, takes _ _ _ (by decide), rfl, rfl⟩,
    ⟨diagnosing 8 3 0, up, _, takes _ _ _ (by decide), rfl, rfl⟩,
    ⟨diagnosing 0 0 0, up, _, takes _ _ _ (by decide)⟩,
    ⟨diagnosing 0 0 0, up, _, takes _ _ _ (by decide), by decide⟩,
    ⟨diagnosing 0 0 0, maintCapturing, _, takes _ _ _ (by decide), by decide, by decide, by decide⟩,
    ⟨diagnosing 0 0 128, inMaint, _, takes _ _ _ (by decide), by decide, rfl⟩,
    ⟨diagnosing 0 0 127, inMaint, _, takes _ _ _ (by decide), by decide, ?_, rfl, by decide⟩⟩
  rintro ⟨i, -, h⟩
  revert h
  cases i <;> decide

set_option maxRecDepth 40000 in
theorem witness_ErrorCorrection :
    (checkWord ((protect 5).flip 38)).cls = .corrected ∧
    (checkWord (((protect 5).flip 0).flip 38)).cls = .uncorrectable := by
  decide

/-- The recorder with every slot UNREAD. -/
def full : Recorder := { up.inc with slots := .ofFn fun _ => ⟨.unread, some 1⟩ }

/-- A capture in slot 0. -/
def capturing (planned : Nat) : Recorder :=
  { up.inc with
    slots := up.inc.slots.set .s0 ⟨.capturing, some 1⟩, capture := some ⟨.s0, 0, planned⟩
    sample := some ⟨0, 20⟩ }

theorem witness_TriggersTaken :
    (∃ s : State, s.phase = .running ∧ s.mem.wf ∧ s.params.preCount ≤ 32) ∧
    (∃ (r : Req) (s u : State), s.Takes 68 r u ∧ r.words.w1.toNat = 256) ∧
    (∃ (r : Req) (s u : State), s.Takes 68 r u ∧ r.words.w1.toNat = 255 ∧ u.mem.wf ∧ u.params.preCount ≤ 32) ∧
    (recording { up.inc with enabled := 0 }).inc.enabled.getLsbD (causeCode .penalty) = false ∧
    (up.inc.enabled.getLsbD (causeCode .manualMark) = true ∧ up.inc.capture = none ∧ ¬NoneChosen up) ∧
    NoneChosen (recording full) ∧ (recording (capturing 16)).inc.capture = some ⟨.s0, 0, 16⟩ := by
  refine ⟨⟨up, rfl, by decide, by decide⟩,
    ⟨{ link := .m, words := { w1 := 256 } }, up, _, takes _ _ _ (by decide), rfl⟩,
    ⟨{ link := .m, words := { w1 := 255 } }, up, _, takes _ _ _ (by decide), rfl, by decide, by decide⟩,
    by decide, ⟨by decide, rfl, fun h => absurd (h .s0).1 (by decide)⟩, fun j => ?_, rfl⟩
  cases j <;> decide

/-- A merge's four cases: header words 2 to 4 bad, the kind listed, room for another, the list full. -/
def merging (w2 w4 : MemWord) : State :=
  (recording (capturing 16)).setMem ⟨[(slotAddr .s0 2, w2), (slotAddr .s0 4, w4)], 0⟩

set_option maxRecDepth 40000 in
theorem witness_TriggersTaken_merge :
    let words := fun s : State => (s.readWords [slotAddr .s0 2, slotAddr .s0 3, slotAddr .s0 4]).1
    anyBad (words (merging ⟨3, 0⟩ (protect 0x00010000))) = true ∧
    (anyBad (words (merging (protect 0x07010000) (protect 0x00010000))) = false ∧
      (hi8 (hi16 (dataAt (words (merging (protect 0x07010000) (protect 0x00010000))) 0))).toNat =
        causeCode .penalty) ∧
    (hi16 (dataAt (words (merging (protect 0x07010000) (protect 0x000300FF))) 2)).toNat = 3 ∧
    (hi16 (dataAt (words (merging (protect 0x07010000) (protect 0x000400FF))) 2)).toNat = 4 ∧
    (lo16 (dataAt (words (merging (protect 0x07010000) (protect 0x000400FF))) 2)).toNat = 255 := by
  decide

set_option maxRecDepth 40000 in
theorem witness_SampleExpiry :
    (up.phase = .running ∧ up.runOver up.inc.sample = false) ∧
    (later 19 (recording (capturing 1))).runOver (recording (capturing 1)).inc.sample = false ∧
    ((later 20 (recording (capturing 1))).runOver (recording (capturing 1)).inc.sample = true ∧ (recording (capturing 1)).appendImpossible = false ∧
      (recording (capturing 1)).mem.wf ∧ (recording (capturing 1)).params.preCount ≤ 32 ∧
      (recording (capturing 1)).inc.restartPending = none) ∧
    ((recording { capturing 2 with restartPending := some 1 }).inc.restartPending = some 1 ∧
      (recording { capturing 2 with restartPending := some 1 }).appendImpossible = false) ∧
    ((recording (capturing 1)).setMem ⟨[(slotAddr .s0 5, protect 0x00400000)], 0⟩).appendImpossible = true := by
  decide

theorem witness_RecorderRequests :
    (∃ (r : Req) (s u : State), s.Takes 67 r u) ∧
    (∃ (r : Req) (s u : State), s.Takes 69 r u ∧ u.speed.standstill = false) ∧
    (∃ (r : Req) (s u : State), s.Takes 69 r u ∧ u.speed.standstill = true ∧ u.demand.emergency.any = false ∧
      u.inc.freeze = false) ∧
    (∃ (r : Req) (s u : State), s.Takes 69 r u ∧ u.speed.standstill = true ∧ u.demand.emergency.any = false ∧
      u.inc.freeze = true) ∧
    ∃ (r : Req) (s u : State), s.Takes 80 r u :=
  ⟨⟨{ link := .m }, up, _, takes _ _ _ (by decide)⟩, ⟨{ link := .m }, up, _, takes _ _ _ (by decide), by decide⟩,
    ⟨{ link := .m }, rest, _, takes _ _ _ (by decide), by decide, by decide, by decide⟩,
    ⟨{ link := .m }, rest.setInc { up.inc with freeze := true }, _, takes _ _ _ (by decide), by decide,
      by decide, by decide⟩,
    ⟨{ link := .m }, up, _, takes _ _ _ (by decide)⟩⟩

/-- Slot 7 UNREAD with number 41 and a matching header, armed. -/
def unread : State :=
  (recording { up.inc with slots := up.inc.slots.set .s7 ⟨.unread, some 41⟩, armed := up.inc.armed.set .s7 true }
    ).setMem ⟨[(slotAddr .s7 0, protect 41), (slotAddr .s7 5, protect 0x00010000),
      (slotAddr .s7 6, protect 0x00020000)], 0⟩

/-- An incident frame. -/
def reading (l : LinkId) (slot : Byte) (index part : Half) : Req :=
  { link := l, selector := slot, words := { w1 := index, w2 := part } }

/-- The header words of a slot through the check, and whether they are bad. -/
def headerRead (s : State) (i : Slot) : List Checked := (s.readWords ((List.range 7).map (slotAddr i))).1

set_option maxRecDepth 40000 in
theorem witness_IncidentReads :
    (∃ (r : Req) (s u : State), s.Takes 81 r u ∧ r.selector.toNat = 8) ∧
    (∃ (r : Req) (s u : State), s.Takes 81 r u ∧ r.selector.toNat = slotNo .s7 ∧ u.mem.wf ∧ r.link = .m ∧
      u.inc.armed.get .s7 = true ∧ u.slotState .s7 = .unread ∧ u.inc.freeze = false) ∧
    (anyBad (headerRead unread .s7) = false ∧ (hi16 (dataAt (headerRead unread .s7) 6)).toNat = 2 ∧
      dataAt (headerRead unread .s7) 0 = unread.slotSeq .s7) ∧
    dataAt (headerRead unread .s7) 0 ≠
      ((recording { up.inc with slots := up.inc.slots.set .s7 ⟨.unread, some 42⟩ }).slotSeq .s7) ∧
    anyBad (headerRead (up.setMem retained) .s1) = true ∧
    (anyBad (headerRead up .s0) = false ∧ up.slotState .s0 = .free) ∧
    (∃ (r : Req) (s u : State), s.Takes 82 r u ∧ r.words.w2.toNat = 3) ∧
    (∃ (r : Req) (s u : State), s.Takes 82 r u ∧ r.selector.toNat = slotNo .s0 ∧ r.words.w2.toNat = 2 ∧
      u.slotState .s0 = .free) ∧
    (∃ (r : Req) (s u : State), s.Takes 82 r u ∧ r.selector.toNat = slotNo .s7 ∧ u.slotState .s7 = .unread ∧
      u.storedCount .s7 = 1 ∧ r.words.w1.toNat = 1) ∧
    ∃ (r : Req) (s u : State), s.Takes 82 r u ∧ r.selector.toNat = slotNo .s7 ∧ u.slotState .s7 = .unread ∧
      u.storedCount .s7 = 1 ∧ r.words.w1.toNat = 0 :=
  ⟨⟨reading .p 8 0 0, up, _, takes _ _ _ (by decide), rfl⟩,
    ⟨reading .m 7 0 0, unread, _, takes _ _ _ (by decide), rfl, by decide, rfl, by decide, by decide, by decide⟩,
    by decide, by decide, by decide, by decide, ⟨reading .p 0 0 3, up, _, takes _ _ _ (by decide), rfl⟩,
    ⟨reading .p 0 0 2, up, _, takes _ _ _ (by decide), rfl, rfl, by decide⟩,
    ⟨reading .p 7 1 0, unread, _, takes _ _ _ (by decide), rfl, by decide, by decide, rfl⟩,
    ⟨reading .p 7 0 0, unread, _, takes _ _ _ (by decide), rfl, by decide, by decide, rfl⟩⟩


/-- In service with the links DOWN and a PENALTY_SET waiting. -/
def served : State := (State.reset.setPhase .running).setPending [.penaltySet { link := .a }]

theorem witness_StepKeepsStore : ∃ s t : State, StoreSound s ∧ step s = .next t := by
  refine ⟨served, _, ⟨by decide, fun n => ?_, ?_⟩, rfl⟩
  · cases n <;> decide
  · refine ⟨fun _ i => ⟨fun h => ?_, fun ⟨_, h, _⟩ => ?_⟩, fun _ i h => ?_, fun h => absurd h (by decide),
      fun i j n h => ?_, fun i n h => ?_, by decide, by decide⟩
    · exact absurd h (by cases i <;> decide)
    · exact nomatch h
    · exact absurd h (by cases i <;> decide)
    · cases i <;> exact nomatch h
    · cases i <;> exact nomatch h

theorem witness_StepKeepsFigures : ∃ s t : State, FiguresFollow s ∧ step s = .next t := by
  refine ⟨served, _, ⟨defaults_legal, fun l => ?_, ?_, ?_, fun _ => ⟨fun x => ?_, by decide⟩⟩, rfl⟩
  · refine ⟨?_, ?_, fun _ => ?_⟩ <;> cases l <;> decide
  · refine ⟨by decide, by decide, fun x => ?_, by decide, by decide, by decide⟩
    cases x <;> decide
  · refine ⟨fun k => ⟨?_, ?_, ?_, ?_⟩, fun x => ⟨?_, ?_, ?_, ?_⟩, fun k => ?_, fun x => ?_⟩
    all_goals first | (cases k <;> decide) | (cases x <;> decide)
  · cases x <;> decide

/-- `served` with axle 1 ACTIVE at 400 of 500, with a demand of 400, truck 1 at 120 of 300 and truck 2
dumping. -/
def loaded : State :=
  { served with
    res := { served.res with electric := served.res.electric.set .a1 { Entry.electricReset with state := .active } }
    posted := served.posted.set (.av .a1) (valid 500)
    blend := { served.blend with
      record := { served.blend.record with
        dTot := 400, axles := served.blend.record.axles.set .a1 ⟨500, 400, true, .ramp⟩
        trucks := served.blend.record.trucks.set .t1 ⟨0, 300, 120, true, false, .none⟩ } }
    slide := { served.slide with trucks := served.slide.trucks.set .t2 ⟨.dump, 0, 0, some ⟨0, 3000⟩, false⟩ } }

theorem witness_StepKeepsCommandsBounded : ∃ s t : State, CommandsBounded s ∧ step s = .next t := by
  refine ⟨loaded, _, ⟨⟨by decide, fun k => ⟨?_, ?_, ?_, ?_, ?_, ?_, ?_⟩⟩, by unfold State.SumWithinDemand; decide,
    ⟨by decide, fun x => ?_, fun x => ?_, fun _ x => ?_, fun x => ?_⟩⟩, rfl⟩
  all_goals first | (cases k <;> decide) | (cases x <;> decide)

/-- A full count, an exception flag and a freeze to take back, in MAINT at rest. -/
def laden : State :=
  { restLocked with
    demand := { restLocked.demand with
      mode := .maint, penalty := ⟨true, false, false⟩, emergency := ⟨true, false, false⟩ }
    counters := restLocked.counters.set .c0 ⟨3, 65535⟩
    exc := restLocked.exc.set .tach ⟨some ⟨1, 0⟩, false⟩
    inc := { restLocked.inc with freeze := true } }

set_option maxRecDepth 40000 in
theorem witness_OnlyTheseCommands :
    (exec (.clearCounter { link := .m }) laden = .next (run laden (.clearCounter { link := .m })) ∧
      ((run laden (.clearCounter { link := .m })).counters.get .c0).count < (laden.counters.get .c0).count) ∧
    (exec (.setCounter (counting 0 63)) laden = .next (run laden (.setCounter (counting 0 63))) ∧
      ((run laden (.setCounter (counting 0 63))).counters.get .c0).sel ≠ (laden.counters.get .c0).sel) ∧
    (exec (.clearLockout { link := .m, selector := 6 }) laden =
        .next (run laden (.clearLockout { link := .m, selector := 6 })) ∧
      (laden.slide.axles.get .a6).state = .lockout) ∧
    (exec (.penaltyClear { link := .p }) laden = .next (run laden (.penaltyClear { link := .p })) ∧
      laden.demand.penalty.has .p = true ∧
      (run laden (.penaltyClear { link := .p })).demand.penalty.has .p = false) ∧
    (exec (.penaltySet { link := .a }) laden = .next (run laden (.penaltySet { link := .a })) ∧
      (run laden (.penaltySet { link := .a })).demand.penalty.has .a = true) ∧
    (exec (.emerClear { link := .p }) laden = .next (run laden (.emerClear { link := .p })) ∧
      laden.demand.emergency.has .p = true) ∧
    (exec (.emerSet { link := .a }) laden = .next (run laden (.emerSet { link := .a })) ∧
      (run laden (.emerSet { link := .a })).demand.emergency.has .a = true) ∧
    (exec (.clearExc { link := .m, selector := 8 }) laden = .next (run laden (.clearExc { link := .m, selector := 8 })) ∧
      (laden.exc.get .tach).source ≠ none) ∧
    (exec (.setMask { link := .m, selector := 63 }) laden = .next (run laden (.setMask { link := .m, selector := 63 })) ∧
      ((run laden (.setMask { link := .m, selector := 63 })).exc.get .tach).masked = true) ∧
    (exec (.setTriggers { link := .m }) laden = .next (run laden (.setTriggers { link := .m })) ∧
      (run laden (.setTriggers { link := .m })).inc.enabled ≠ laden.inc.enabled) ∧
    (exec (.writeParam (setting 1 20)) laden = .next (run laden (.writeParam (setting 1 20))) ∧
      (run laden (.writeParam (setting 1 20))).params ≠ laden.params) ∧
    (exec (.diagSelect { link := .m, selector := 1 }) laden =
        .next (run laden (.diagSelect { link := .m, selector := 1 })) ∧
      (run laden (.diagSelect { link := .m, selector := 1 })).diag ≠ laden.diag) ∧
    exec (.diagWrite (diagnosing 0 1 0)) laden = .next (run laden (.diagWrite (diagnosing 0 1 0))) ∧
      laden.mem.wf := by
  refine ⟨⟨rfl, by decide⟩, ⟨rfl, by decide⟩, ⟨rfl, by decide⟩, ⟨rfl, by decide, by decide⟩, ⟨rfl, by decide⟩,
    ⟨rfl, by decide⟩, ⟨rfl, by decide⟩, ⟨rfl, by decide⟩, ⟨rfl, by decide⟩, ⟨rfl, by decide⟩, ⟨rfl, by decide⟩,
    ⟨rfl, by decide⟩, rfl, by decide⟩

end Sys2Proof.Tests
end

section
/-! PROOFS. What only certain commands can do: the guarded part of the state, the aspects of it that a command
may leave as they stand, and for every operation of the blocks that it leaves them. -/

namespace Sys2Proof.Machine

/-- The part of the state that only certain commands may change: the counters, the slide states, the two
holder sets, FREEZE, the trigger enable set, the flags and masks, the parameters, the diagnostic selection,
Record Memory and VBAK. -/
structure Guarded where
  counters : PerCounter Counter
  slides : PerAxle SlideAxle
  penalty : LinkSet
  emergency : LinkSet
  freeze : Bool
  enabled : BitVec 16
  exc : PerKind ExcEntry
  params : Params
  diag : DiagSel
  mem : Memory
  vbak : Bool

/-- The guarded part of a state. -/
def State.guarded (s : State) : Guarded :=
  ⟨s.counters, s.slide.axles, s.demand.penalty, s.demand.emergency, s.inc.freeze, s.inc.enabled, s.exc,
    s.params, s.diag, s.mem, s.vbak⟩

/-- What a command can do only if it is one of certain commands: one aspect for each clause of
`Obligations.OnlyTheseCommands`. -/
inductive Aspect where
  | countFalls | selection | lockoutLeft
  | penaltyLeft (l : LinkId) | penaltyEntered (l : LinkId)
  | emergencyLeft (l : LinkId) | emergencyEntered (l : LinkId)
  | freezeLeft | flagCleared | mask | enableSet | parameters | diagnostic | memory | vbakLost | vbakBack

/-- The aspect is kept from `x` to `y`: what it names has not happened. -/
def Aspect.kept (x y : Guarded) : Aspect → Prop
  | .countFalls => ∀ n, (x.counters.get n).count ≤ (y.counters.get n).count
  | .selection => ∀ n, (y.counters.get n).sel = (x.counters.get n).sel
  | .lockoutLeft => ∀ k, (x.slides.get k).state = .lockout → (y.slides.get k).state = .lockout
  | .penaltyLeft l => x.penalty.has l = true → y.penalty.has l = true
  | .penaltyEntered l => x.penalty.has l = false → y.penalty.has l = false
  | .emergencyLeft l => x.emergency.has l = true → y.emergency.has l = true
  | .emergencyEntered l => x.emergency.has l = false → y.emergency.has l = false
  | .freezeLeft => x.freeze = true → y.freeze = true
  | .flagCleared => ∀ k, (x.exc.get k).source ≠ none → (y.exc.get k).source ≠ none
  | .mask => ∀ k, (y.exc.get k).masked = (x.exc.get k).masked
  | .enableSet => y.enabled = x.enabled
  | .parameters => y.params = x.params
  | .diagnostic => y.diag = x.diag
  | .memory => x.mem.wf →
      y.mem.wf ∧ ∀ a, y.mem.read a ≠ x.mem.read a → ∃ d, y.mem.read a = protect d
  | .vbakLost => x.vbak = true → y.vbak = true
  | .vbakBack => x.vbak = false → y.vbak = false

/-- The one component that an aspect speaks of stands from `x` to `y`. -/
def Aspect.stands (x y : Guarded) : Aspect → Prop
  | .countFalls | .selection => y.counters = x.counters
  | .lockoutLeft => y.slides = x.slides
  | .penaltyLeft _ | .penaltyEntered _ => y.penalty = x.penalty
  | .emergencyLeft _ | .emergencyEntered _ => y.emergency = x.emergency
  | .freezeLeft => y.freeze = x.freeze
  | .flagCleared | .mask => y.exc = x.exc
  | .enableSet => y.enabled = x.enabled
  | .parameters => y.params = x.params
  | .diagnostic => y.diag = x.diag
  | .memory => y.mem = x.mem
  | .vbakLost | .vbakBack => y.vbak = x.vbak

/-- An aspect is kept where its component stands. -/
theorem Aspect.kept_of_stands {x y : Guarded} {a : Aspect} (h : a.stands x y) : a.kept x y := by
  cases a
  case memory =>
    have hm : y.mem = x.mem := h
    exact fun hw => ⟨hm ▸ hw, fun _ hb => absurd (by rw [hm]) hb⟩
  all_goals
    simp only [Aspect.stands] at h
    simp [Aspect.kept, h]

/-- Every aspect is kept where nothing changes. -/
theorem Aspect.kept_refl (x : Guarded) (a : Aspect) : a.kept x x :=
  Aspect.kept_of_stands (by cases a <;> rfl)

/-- What two operations keep one after another, both together keep. -/
theorem Aspect.kept_trans {x y z : Guarded} {a : Aspect} (h : a.kept x y) (g : a.kept y z) : a.kept x z := by
  cases a
  case countFalls => exact fun n => le_trans (h n) (g n)
  case selection => exact fun n => (g n).trans (h n)
  case mask => exact fun k => (g k).trans (h k)
  case enableSet | parameters | diagnostic => exact Eq.trans g h
  case lockoutLeft | flagCleared => exact fun k hk => g k (h k hk)
  case memory =>
    intro hx
    obtain ⟨hy, hm⟩ := h hx
    obtain ⟨hz, hn⟩ := g hy
    refine ⟨hz, fun b hb => ?_⟩
    by_cases hc : z.mem.read b = y.mem.read b
    · rw [hc] at hb ⊢
      exact hm b hb
    · exact hn b hc
  all_goals exact fun hx => g (h hx)

/-- Every aspect is kept from `s` to `t`. -/
def Calm (s t : State) : Prop := ∀ a : Aspect, a.kept s.guarded t.guarded

/-- An operation that leaves the guarded part keeps every aspect. -/
theorem Calm.of_guarded {s t : State} (h : t.guarded = s.guarded) : Calm s t :=
  fun a => h ▸ Aspect.kept_refl _ a

theorem Calm.refl (s : State) : Calm s s := .of_guarded rfl

theorem Calm.trans {s t u : State} (h : Calm s t) (g : Calm t u) : Calm s u :=
  fun a => Aspect.kept_trans (h a) (g a)

/-- A calm operation followed by one that leaves the guarded part. -/
theorem Calm.then {s t u : State} (h : Calm s t) (g : u.guarded = t.guarded) : Calm s u :=
  h.trans (.of_guarded g)

/-- A calm operation after one that leaves the guarded part. -/
theorem Calm.after {s t u : State} (g : Calm t u) (h : t.guarded = s.guarded) : Calm s u :=
  (Calm.of_guarded h).trans g

/-- Hand-offs that are each calm are calm together, in the list's order. -/
theorem forEach_calm {α : Type} (xs : List α) (f : α → State → State) (h : ∀ x u, Calm u (f x u)) (s : State) :
    Calm s (forEach xs f s) :=
  forEach_keeps (Calm s) xs f (fun x u hu => hu.trans (h x u)) s (.refl s)

/-- Hand-offs that are each calm are calm together, in any order. -/
theorem inAnyOrder_calm (fs : List (State → State)) (h : ∀ f ∈ fs, ∀ u, Calm u (f u)) (s : State) :
    Calm s (inAnyOrder fs s) :=
  inAnyOrder_keeps (Calm s) (fun _ _ hu => hu.then rfl) fs (fun f hf u hu => hu.trans (h f hf u)) s (.refl s)

/-- Hand-offs that each leave the guarded part leave it together. -/
theorem forEach_guarded {α : Type} (xs : List α) (f : α → State → State)
    (h : ∀ x u, (f x u).guarded = u.guarded) (s : State) : (forEach xs f s).guarded = s.guarded :=
  forEach_keeps (fun u => u.guarded = s.guarded) xs f (fun x u hu => (h x u).trans hu) s rfl

/-! Counting, exceptions and triggers -/

/-- A counter keeps its selection and does not fall at an occurrence (R163). -/
theorem Counter.occur_keeps (n : Nat) (c : Counter) : (c.occur n).sel = c.sel ∧ c.count ≤ (c.occur n).count := by
  unfold Counter.occur
  split <;> simp

theorem State.count_calm (s : State) (n : Nat) : Calm s (s.count n) := by
  intro a
  cases a
  case countFalls => exact fun i => by simpa [State.guarded] using ((s.counters.get i).occur_keeps n).2
  case selection => exact fun i => by simpa [State.guarded] using ((s.counters.get i).occur_keeps n).1
  all_goals exact Aspect.kept_of_stands rfl

theorem State.countMany_calm (n k : Nat) : ∀ s : State, Calm s (s.countMany n k) := by
  induction k with
  | zero => exact fun s => .refl s
  | succ k ih => exact fun s => (s.count_calm n).trans (ih (s.count n))

/-- An occurrence neither clears a flag nor touches a mask (R13). -/
theorem ExcEntry.occur_keeps (e : ExcEntry) (d : Nat) (now : Stamp) :
    (e.source ≠ none → (e.occur d now).source ≠ none) ∧ (e.occur d now).masked = e.masked := by
  unfold ExcEntry.occur
  cases h : e.source <;> simp [h]

theorem State.occur_calm (s : State) (k : ExcKind) (d : Nat) : Calm s (s.occur k d) := by
  have he : (s.occur k d).guarded =
      (s.setExc (s.exc.set k ((s.exc.get k).occur d s.now))).guarded := by
    unfold State.occur
    dsimp only
    split <;> rfl
  intro a
  rw [he]
  cases a
  case flagCleared =>
    intro j hj
    by_cases h : j = k
    · subst h
      simpa [State.guarded] using ((s.exc.get j).occur_keeps d s.now).1 hj
    · simpa [State.guarded, h] using hj
  case mask =>
    intro j
    by_cases h : j = k
    · subst h
      simpa [State.guarded] using ((s.exc.get j).occur_keeps d s.now).2
    · simp [State.guarded, h]
  all_goals exact Aspect.kept_of_stands rfl

theorem State.occurFirst_calm (s : State) (k : ExcKind) (ds : List Delivery) : Calm s (s.occurFirst k ds) := by
  cases ds with
  | nil => exact .refl s
  | cons d _ => exact s.occur_calm k _

/-! Record Memory -/

theorem State.storeWord_calm (s : State) (a : Nat) (d : Word) : Calm s (s.storeWord a d) := by
  intro x
  cases x
  case memory =>
    intro hw
    refine ⟨s.storeWord_wf a d hw, fun b hb => ?_⟩
    have hr := s.mem.read_write a b (protect d) hw
    change (s.mem.write a (protect d)).read b ≠ s.mem.read b at hb
    change ∃ d', (s.mem.write a (protect d)).read b = protect d'
    by_cases h : b = a
    · exact ⟨d, by rw [hr, if_pos h]⟩
    · exact absurd (by rw [hr, if_neg h]) hb
  all_goals exact Aspect.kept_of_stands rfl

theorem State.storeWords_calm (ds : List Word) : ∀ (s : State) (a : Nat), Calm s (s.storeWords a ds) := by
  induction ds with
  | nil => exact fun s _ => .refl s
  | cons d ds ih => exact fun s a => (s.storeWord_calm a d).trans (ih _ _)

theorem State.readWord_calm (s : State) (a : Nat) : Calm s (s.readWord a).2 := by
  unfold State.readWord State.afterRead
  dsimp only
  split
  · exact .refl s
  · exact (s.storeWord_calm a _).trans (State.count_calm _ 16)
  · exact s.count_calm 17

theorem State.readWords_calm (as : List Nat) : ∀ s : State, Calm s (s.readWords as).2 := by
  induction as with
  | nil => exact fun s => .refl s
  | cons a as ih => exact fun s => (s.readWord_calm a).trans (ih _)

end Sys2Proof.Machine
end

section
/-! PROOFS. The operations of the blocks leave the guarded part, or keep every aspect of it. -/

namespace Sys2Proof.Machine

/-! Operations that leave the guarded part -/

theorem ModeSettled.guarded {b t : State} (h : ModeSettled b t) : t.guarded = b.guarded := by
  rw [h.same, h.mode]
  rfl

theorem State.evaluateMode_guarded (s : State) : s.evaluateMode.guarded = s.guarded :=
  s.evaluateMode_settled.guarded

theorem State.demandChanged_guarded (s : State) : s.demandChanged.guarded = s.guarded :=
  s.recomputeDemand.evaluateMode_guarded

theorem AvailCut.guarded {b m : State} {old : Posted} (h : AvailCut b m old) : m.guarded = b.guarded := by
  rw [h.same]
  rfl

theorem Handed.guarded {b t : State} {old : Posted} (h : Handed b t old) : t.guarded = b.guarded := by
  obtain ⟨m, hm, same, changed⟩ := h
  rw [← hm.guarded]
  by_cases hf : b.posted.demandFigures = old.demandFigures
  · rw [same hf]
  · exact (changed hf).guarded

theorem State.handPosted_guarded (s : State) (old : Posted) : (s.handPosted old).guarded = s.guarded :=
  (s.handPosted_handed old).guarded

theorem State.holdExpiry_guarded (s : State) (i : Item) : (s.holdExpiry i).guarded = s.guarded := by
  unfold State.holdExpiry
  split
  · exact State.handPosted_guarded _ _
  · rfl

theorem State.goodHoldExpiry_guarded (s : State) (i : Item) : (s.goodHoldExpiry i).guarded = s.guarded := by
  unfold State.goodHoldExpiry
  split
  · exact State.handPosted_guarded _ _
  · rfl

theorem State.postedLinkLost_guarded (s : State) (l : LinkId) : (s.postedLinkLost l).guarded = s.guarded :=
  State.handPosted_guarded _ _

theorem State.demandLinkLost_guarded (s : State) (l : LinkId) : (s.demandLinkLost l).guarded = s.guarded := by
  have h := (s.setMaint (s.demand.maint.put l false)).evaluateMode_guarded
  cases l <;> exact h

theorem State.refreshLinkLoss_guarded (s : State) (l : LinkId) : (s.refreshLinkLoss l).guarded = s.guarded := by
  obtain ⟨r, b, h⟩ := s.refreshLinkLoss_frame l
  rw [h]
  rfl

theorem State.refreshLockout_guarded (s : State) (k : Axle) : (s.refreshLockout k).guarded = s.guarded := by
  obtain ⟨r, b, x, h⟩ := s.refreshLockout_frame k
  rw [h]
  rfl

theorem State.writeResource_guarded (s : State) (x : Resource) (f : Field) (v : Nat) :
    (s.writeResource x f v).guarded = s.guarded := by
  cases x with
  | electric k =>
    obtain ⟨r, b, h⟩ := s.writeElectric_frame k f v
    exact (congrArg State.guarded h).trans rfl
  | air t =>
    obtain ⟨r, b, h⟩ := s.writeAir_frame t f v
    exact (congrArg State.guarded h).trans rfl

theorem State.reduceTruckByTable_guarded (s : State) (t : Truck) (b : Nat) :
    (s.reduceTruckByTable t b).guarded = s.guarded := by
  obtain ⟨x, h⟩ := s.reduceTruckByTable_frame t b
  rw [h]
  rfl

theorem State.limitCut_guarded (s : State) (k : Axle) (n : Nat) : (s.limitCut k n).guarded = s.guarded := by
  obtain ⟨b, h⟩ := s.limitCut_frame k n
  rw [h]
  rfl

theorem State.actionCut_guarded (s : State) (t : Truck) (a : Action) : (s.actionCut t a).guarded = s.guarded := by
  obtain ⟨b, h⟩ := s.actionCut_frame t a
  rw [h]
  rfl

theorem State.tachSample_guarded (s : State) (k : Axle) (high : Bool) : (s.tachSample k high).guarded = s.guarded := by
  unfold State.tachSample
  dsimp only
  split <;> rfl

theorem State.updateVref_guarded (s : State) : s.updateVref.guarded = s.guarded := by
  unfold State.updateVref
  dsimp only
  split
  · rfl
  · split <;> rfl

theorem State.governOpen_guarded (s : State) (k : Axle) (c : SpeedCase) : (s.governOpen k c).guarded = s.guarded := by
  unfold State.governOpen
  dsimp only
  split
  · split <;> rfl
  · rfl

theorem State.governStill_guarded (s : State) : s.governStill.guarded = s.guarded := by
  unfold State.governStill
  dsimp only
  split
  · split <;> rfl
  · split
    · exact State.evaluateMode_guarded _
    · rfl

theorem State.zeroExpiry_guarded (s : State) (k : Axle) : (s.zeroExpiry k).guarded = s.guarded := by
  unfold State.zeroExpiry
  dsimp only
  split <;> rfl

theorem State.stillExpiry_guarded (s : State) : s.stillExpiry.guarded = s.guarded := by
  unfold State.stillExpiry
  split
  · rfl
  · exact State.evaluateMode_guarded _

/-- The change of link state that an arrival brings leaves the guarded part (R175). -/
theorem State.arrive_guarded (s : State) (l : LinkId) : (s.arrive l).guarded = s.guarded := by
  obtain ⟨r, b, y, h⟩ := s.arrive_frame l
  rw [h]
  rfl

theorem State.respond_guarded (s : State) (l : LinkId) (x : Response) : (s.respond l x).guarded = s.guarded := by
  unfold State.respond
  split <;> rfl

theorem State.transferAbort_guarded (s : State) (l : LinkId) : (s.transferAbort l).guarded = s.guarded := rfl

theorem State.transferStart_guarded (s : State) (l : LinkId) : (s.transferStart l).guarded = s.guarded := by
  unfold State.transferStart
  dsimp only
  split <;> rfl

/-! Operations that keep every aspect: the Posted Value Table and the Blend Unit -/

theorem State.freshExpiry_calm (s : State) (i : Item) : Calm s (s.freshExpiry i) := by
  unfold State.freshExpiry
  dsimp only
  split
  · exact (State.occur_calm _ _ _).after rfl
  · exact .refl s

theorem State.post_calm (s : State) (r : Req) (items : List Item) : Calm s (s.post r items) := by
  unfold State.post
  dsimp only
  refine Calm.then (Calm.trans (Calm.trans (Calm.trans ?_ (State.countMany_calm _ _ _))
    (State.occurFirst_calm _ _ _)) (State.occurFirst_calm _ _ _)) (State.handPosted_guarded _ _)
  exact .of_guarded rfl

theorem State.compute_calm (s : State) : Calm s s.compute := by
  unfold State.compute
  dsimp only
  split
  · exact (State.count_calm _ 20).after rfl
  · exact .of_guarded rfl

theorem State.shortfallExpiry_calm (s : State) : Calm s s.shortfallExpiry := by
  unfold State.shortfallExpiry
  split
  · exact .refl s
  · refine Calm.trans ?_ (State.count_calm _ 15)
    exact (State.occur_calm _ _ _).after rfl

theorem State.deviationExpiry_calm (s : State) (t : Truck) : Calm s (s.deviationExpiry t) := by
  unfold State.deviationExpiry
  split
  · exact (State.occur_calm _ _ _).after rfl
  · exact .refl s

theorem State.deviationAtOnce_calm (s : State) (t : Truck) : Calm s (s.deviationAtOnce t) := by
  unfold State.deviationAtOnce
  split
  · exact (State.occur_calm _ _ _).after rfl
  · exact .refl s

/-! The Speed Unit and the Slide Unit -/

theorem State.openTachExpiry_calm (s : State) (k : Axle) : Calm s (s.openTachExpiry k) := by
  unfold State.openTachExpiry
  dsimp only
  split
  · exact .refl s
  · split
    · exact .of_guarded rfl
    · exact (State.occur_calm _ _ _).after rfl

theorem State.windowSpeed_calm (s : State) (k : Axle) : Calm s (s.windowSpeed k).2 := by
  unfold State.windowSpeed
  dsimp only
  split
  · exact (State.occur_calm _ _ _).after rfl
  · exact .of_guarded rfl

/-- Replacing an axle of the Slide Unit keeps every aspect unless it takes the axle out of LOCKOUT. -/
theorem State.setSlideAxle_calm (s : State) (k : Axle) (x : SlideAxle)
    (h : (s.slide.axles.get k).state = .lockout → x.state = .lockout) : Calm s (s.setSlideAxle k x) := by
  intro a
  cases a
  case lockoutLeft =>
    intro j hj
    change ((s.slide.axles.set k x).get j).state = .lockout
    rw [PerAxle.get_set]
    split
    · rename_i e
      exact h (e ▸ hj)
    · exact hj
  all_goals exact Aspect.kept_of_stands rfl

/-- An evaluation leaves an axle in LOCKOUT where it is (Table 6-2). -/
theorem SlideAxle.judge_lockout (x : SlideAxle) (now : Stamp) (p : Params) (c : Comparison) (cls : Cls)
    (decel : Int) (command : Nat) (h : x.state = .lockout) :
    (x.judge now p c cls decel command).axle.state = .lockout := by
  simp [SlideAxle.judge, verdictOf, h]

theorem State.rederiveAction_calm (s : State) (t : Truck) : Calm s (s.rederiveAction t) := by
  unfold State.rederiveAction
  dsimp only
  split
  · exact .refl s
  · split
    · exact (State.count_calm _ 9).after rfl
    · exact .of_guarded rfl

theorem State.announce_calm (s : State) (k : Axle) (j : Judged) : Calm s (s.announce k j) := by
  unfold State.announce
  refine inAnyOrder_calm _ (fun f hf u => ?_) s
  rcases List.mem_append.mp hf with hf | hf
  · split at hf
    · rw [List.mem_singleton.mp hf]
      exact ((State.count_calm _ (axleNo k)).after rfl).trans (State.count_calm _ 7)
    · simp at hf
  · split at hf
    · rw [List.mem_singleton.mp hf]
      exact (State.count_calm _ 8).after rfl
    · simp at hf

theorem State.evaluate_calm (s : State) (k : Axle) : Calm s (s.evaluate k) := by
  unfold State.evaluate
  extract_lets x v t c j s₁ old s₂
  have h₁ : Calm s s₁ :=
    (s.setSlideAxle_calm k j.axle fun h => x.judge_lockout _ _ _ _ _ _ h).trans (State.announce_calm _ k j)
  have h₂ : Calm s s₂ := by
    by_cases h : j.axle.state = x.state
    · rw [show s₂ = s₁ from if_pos h]
      exact h₁
    · rw [show s₂ = s₁.rederiveAction t from if_neg h]
      exact h₁.trans (State.rederiveAction_calm _ t)
  split
  · refine h₂.trans (inAnyOrder_calm _ (fun f hf u => ?_) s₂)
    simp only [List.mem_cons, List.not_mem_nil, or_false] at hf
    rcases hf with rfl | rfl | rfl
    · exact .of_guarded (u.limitCut_guarded k x.limit)
    · exact .of_guarded (u.actionCut_guarded t old)
    · exact .of_guarded (u.refreshLockout_guarded k)
  · exact (h₂.then (State.limitCut_guarded _ _ _)).then (State.actionCut_guarded _ _ _)

theorem State.windowExpiry_calm (s : State) (k : Axle) : Calm s (s.windowExpiry k) := by
  unfold State.windowExpiry
  split
  · exact .refl s
  · exact ((((s.windowSpeed_calm k).then (State.updateVref_guarded _)).then
      (State.governOpen_guarded _ k _)).then (State.governStill_guarded _)).trans (State.evaluate_calm _ k)

theorem State.dumpExpiry_calm (s : State) (t : Truck) : Calm s (s.dumpExpiry t) := by
  unfold State.dumpExpiry
  dsimp only
  split
  · exact .refl s
  · refine Calm.trans ?_ (State.count_calm _ 10)
    refine Calm.then ?_ (State.actionCut_guarded _ t _)
    exact (State.rederiveAction_calm _ t).after rfl

/-! The Link Interfaces -/

theorem State.linkDown_calm (s : State) (l : LinkId) (detail : Nat) : Calm s (s.linkDown l detail) := by
  unfold State.linkDown
  dsimp only
  refine Calm.trans ?_ (State.count_calm _ 11)
  refine Calm.then (t := inAnyOrder _ (s.setPort l (s.port l).drop)) ?_ rfl
  refine Calm.after (inAnyOrder_calm _ (fun f hf u => ?_) _) rfl
  simp only [List.mem_cons, List.not_mem_nil, or_false] at hf
  rcases hf with rfl | rfl | rfl
  · exact .of_guarded (u.postedLinkLost_guarded l)
  · exact .of_guarded (u.demandLinkLost_guarded l)
  · exact .of_guarded (u.refreshLinkLoss_guarded l)

theorem State.linkFail_calm (s : State) (l : LinkId) : Calm s (s.linkFail l) := by
  unfold State.linkFail
  dsimp only
  split
  · exact .refl s
  all_goals
    split
    · exact .of_guarded rfl
    · exact s.linkDown_calm l 2

theorem State.frameFailure_calm (s : State) (l : LinkId) : Calm s (s.frameFailure l) := by
  unfold State.frameFailure
  dsimp only
  split
  · exact .of_guarded rfl
  · refine Calm.trans ?_ (State.linkFail_calm _ l)
    exact (State.count_calm _ 18).after rfl

end Sys2Proof.Machine
end

section
/-! PROOFS. The operations of the Incident Recorder and the resets keep every aspect of the guarded part, but that
the scan of Record Memory may take back FREEZE. -/

namespace Sys2Proof.Machine

/-- A change of the recorder that leaves FREEZE and the trigger enable set leaves the guarded part. -/
theorem State.setInc_guarded (s : State) (x : Recorder) (hf : x.freeze = s.inc.freeze)
    (he : x.enabled = s.inc.enabled) : (s.setInc x).guarded = s.guarded := by
  simp [State.guarded, hf, he]

/-- A new next sequence number leaves the guarded part. -/
theorem State.setNextSeq_guarded (s : State) (n : Word) :
    (s.setInc { s.inc with nextSeq := n }).guarded = s.guarded := rfl

/-- The working copies and the capture of an opening leave the guarded part. -/
theorem State.setOpened_guarded (s : State) (x : PerSlot SlotCopy) (c : Option Capture) :
    (s.setInc { s.inc with slots := x, capture := c }).guarded = s.guarded := rfl

/-! Slots -/

theorem State.damageWith_calm (s : State) (i : Slot) (six : Checked) : Calm s (s.damageWith i six) := by
  unfold State.damageWith
  exact (State.storeWord_calm s _ _).then (State.setInc_guarded _ _ rfl rfl)

theorem State.damage_calm (s : State) (i : Slot) : Calm s (s.damage i) :=
  (s.readWord_calm (slotAddr i 6)).trans (State.damageWith_calm _ _ _)

/-- Entering FREEZE keeps every aspect; it is never the leaving of FREEZE (R143). -/
theorem State.enterFreeze_calm (s : State) : Calm s s.enterFreeze := by
  unfold State.enterFreeze
  split
  · exact .refl s
  · refine Calm.trans ?_ (State.storeWord_calm _ _ _)
    intro a
    cases a
    case freezeLeft => exact fun _ => rfl
    all_goals exact Aspect.kept_of_stands rfl

theorem State.consumeSeq_calm (s : State) : Calm s s.consumeSeq := by
  unfold State.consumeSeq
  exact (State.storeWord_calm _ _ _).after rfl

theorem State.completeAtOnce_calm (s : State) (i : Slot) : Calm s (s.completeAtOnce i) := by
  unfold State.completeAtOnce
  exact (s.storeWord_calm _ _).then rfl

/-- Where a condition holds an operation that keeps every aspect is made, and otherwise none. -/
theorem Calm.ite {s t : State} {p : Prop} [Decidable p] {f : State → State} (h : Calm s t) (g : ∀ u, Calm u (f u)) :
    Calm s (if p then f t else t) := by
  split
  · exact h.trans (g t)
  · exact h

theorem State.openSlot_calm (s : State) (i : Slot) (c : Cause) (detail : Byte) : Calm s (s.openSlot i c detail) := by
  unfold State.openSlot
  dsimp only
  refine Calm.ite (f := (·.completeAtOnce i)) ?_ fun u => u.completeAtOnce_calm i
  refine Calm.ite (Calm.trans ?_ (State.count_calm _ 12)) State.enterFreeze_calm
  refine Calm.then ?_ (State.setOpened_guarded _ _ _)
  refine Calm.trans (Calm.trans s.consumeSeq_calm ?_) (State.storeWords_calm _ _ _)
  exact State.storeWords_calm _ _ _

theorem State.loseIncident_calm (s : State) : Calm s s.loseIncident := by
  unfold State.loseIncident
  dsimp only
  refine Calm.trans (Calm.then (t := if s.inc.nextSeq = lastSeq then s else s.consumeSeq) ?_ rfl) (State.count_calm _ 13)
  split
  · exact .refl s
  · exact s.consumeSeq_calm

theorem State.merge_calm (s : State) (i : Slot) (c : Cause) (detail : Byte) : Calm s (s.merge i c detail).2 := by
  unfold State.merge
  have hr := s.readWords_calm [slotAddr i 2, slotAddr i 3, slotAddr i 4]
  generalize s.readWords [slotAddr i 2, slotAddr i 3, slotAddr i 4] = x at hr ⊢
  obtain ⟨ws, s₁⟩ := x
  dsimp only at hr ⊢
  split
  · exact hr.trans (s₁.damage_calm i)
  · split
    · exact hr
    · split
      · refine Calm.ite (hr.trans ?_) State.enterFreeze_calm
        exact (State.storeWords_calm _ _ _).trans (State.count_calm _ 14)
      · exact (hr.trans (State.storeWord_calm _ _ _)).trans (State.count_calm _ 14)

theorem State.openOrLose_calm (s : State) (c : Cause) (detail : Byte) : Calm s (s.openOrLose c detail).2 := by
  unfold State.openOrLose
  split
  · exact s.loseIncident_calm
  · split
    · exact s.openSlot_calm _ c detail
    · exact s.loseIncident_calm

theorem State.takeTrigger_calm (s : State) (c : Cause) (detail : Byte) : Calm s (s.takeTrigger c detail).2 := by
  unfold State.takeTrigger
  split
  · split
    · exact s.merge_calm _ c detail
    · exact s.openOrLose_calm c detail
  · exact .refl s

theorem State.triggerArrives_calm (s : State) (c : Cause) (detail : Byte) : Calm s (s.triggerArrives c detail) := by
  unfold State.triggerArrives
  exact (State.takeTrigger_calm _ c detail).after rfl

/-! Capture -/

theorem State.afterAppend_calm (s : State) (c : Capture) (six : Word) : Calm s (s.afterAppend c six) := by
  unfold State.afterAppend
  split
  · exact (s.storeWord_calm _ _).then rfl
  · exact .of_guarded rfl

theorem State.append_calm (s : State) (c : Capture) (x : Snapshot) : Calm s (s.append c x) := by
  unfold State.append
  have hr := s.readWords_calm (appendReads c)
  generalize s.readWords (appendReads c) = x at hr ⊢
  obtain ⟨ws, s₁⟩ := x
  dsimp only at hr ⊢
  split
  · split
    · exact hr.trans (s₁.damageWith_calm _ _)
    · exact hr.trans (s₁.damage_calm _)
  · refine Calm.trans ?_ (State.afterAppend_calm _ c _)
    exact (hr.trans (State.storeWords_calm _ _ _)).trans (State.storeWord_calm _ _ _)

theorem State.takePendingRestart_calm (s : State) : Calm s s.takePendingRestart := by
  unfold State.takePendingRestart
  split
  · exact (s.takeTrigger_calm .restart _).then rfl
  · exact .refl s

theorem State.appendIfCapturing_calm (s : State) (x : Snapshot) : Calm s (s.appendIfCapturing x) := by
  unfold State.appendIfCapturing
  split
  · exact s.append_calm _ x
  · exact .refl s

theorem State.sampleExpiry_calm (s : State) : Calm s s.sampleExpiry := by
  unfold State.sampleExpiry
  dsimp only
  refine Calm.trans ?_ (State.takePendingRestart_calm _)
  exact (State.appendIfCapturing_calm _ _).after rfl

theorem State.truncate_calm (s : State) : Calm s s.truncate := by
  unfold State.truncate
  split
  · exact .refl s
  · rename_i c _
    have hr := s.readWord_calm (slotAddr c.slot 6)
    generalize s.readWord (slotAddr c.slot 6) = x at hr ⊢
    obtain ⟨six, s₁⟩ := x
    dsimp only at hr ⊢
    split
    · exact hr.trans (s₁.damageWith_calm _ _)
    · exact (hr.trans (s₁.storeWord_calm _ _)).then rfl

/-! Reading -/

theorem State.acknowledge_calm (s : State) (i : Slot) (marks : Half) : Calm s (s.acknowledge i marks) := by
  unfold State.acknowledge
  exact (s.storeWord_calm _ _).then rfl

theorem State.readHeader_calm (s : State) (l : LinkId) (i : Slot) : Calm s (s.readHeader l i).2 := by
  unfold State.readHeader
  have hr := s.readWords_calm (headerAddrs i)
  generalize s.readWords (headerAddrs i) = x at hr ⊢
  obtain ⟨cs, s₁⟩ := x
  dsimp only at hr ⊢
  split
  · exact hr.trans (s₁.damageWith_calm i _)
  · split
    · exact hr
    · split
      · exact hr.trans (s₁.acknowledge_calm i _)
      · exact hr

theorem State.readSnap_calm (s : State) (i : Slot) (n part : Nat) : Calm s (s.readSnap i n part).2 :=
  s.readWords_calm _

/-! The power-on scan -/

theorem State.scanDamage_calm (s : State) (i : Slot) (six : Checked) : Calm s (s.scanDamage i six) := by
  unfold State.scanDamage
  exact (s.damageWith_calm i six).then rfl

theorem State.scanSlot_calm (i : Slot) (s : State) : Calm s (s.scanSlot i) := by
  unfold State.scanSlot
  have hr := s.readWords_calm (headerAddrs i)
  generalize s.readWords (headerAddrs i) = x at hr ⊢
  obtain ⟨cs, s₁⟩ := x
  dsimp only at hr ⊢
  have damaged := hr.trans (s₁.scanDamage_calm i (cs.getD 6 ⟨.uncorrectable, 0⟩))
  split
  · exact damaged
  · split
    · exact damaged
    · exact hr.then rfl
    · exact hr.then rfl
    · split
      · exact damaged
      · exact (hr.trans (s₁.storeWord_calm _ _)).then rfl
    all_goals
      split
      · exact damaged
      · exact hr.then rfl

theorem State.scanRepeat_calm (i : Slot) (s : State) : Calm s (s.scanRepeat i) := by
  unfold State.scanRepeat
  dsimp only
  split
  · exact s.scanDamage_calm i _
  · exact .refl s

theorem State.scanDamagedSeq_calm (i : Slot) (s : State) : Calm s (s.scanDamagedSeq i) := by
  unfold State.scanDamagedSeq
  dsimp only
  split
  · exact .of_guarded rfl
  · exact .refl s

theorem State.scanNextSeq_calm (s : State) : Calm s s.scanNextSeq := by
  unfold State.scanNextSeq
  have hr := s.readWord_calm (retentionAddr 1)
  generalize s.readWord (retentionAddr 1) = x at hr ⊢
  obtain ⟨one, s₁⟩ := x
  dsimp only at hr ⊢
  generalize BitVec.ofNat 32 _ = w
  exact (hr.then (s₁.setNextSeq_guarded w)).ite (f := (·.storeWord (retentionAddr 1) w))
    fun u => u.storeWord_calm _ w

/-- Giving FREEZE a level keeps every aspect but the leaving of FREEZE. -/
theorem setFreeze_kept (s : State) (x : Recorder) (he : x.enabled = s.inc.enabled) {a : Aspect}
    (ha : a ≠ .freezeLeft) : a.kept s.guarded (s.setInc x).guarded := by
  cases a
  case freezeLeft => exact absurd rfl ha
  case enableSet => exact he
  all_goals exact Aspect.kept_of_stands rfl

theorem State.scanFreeze_kept (s : State) {a : Aspect} (ha : a ≠ .freezeLeft) :
    a.kept s.guarded s.scanFreeze.guarded := by
  unfold State.scanFreeze
  have hr := s.readWord_calm (retentionAddr 2)
  generalize s.readWord (retentionAddr 2) = x at hr ⊢
  obtain ⟨two, s₁⟩ := x
  dsimp only at hr ⊢
  have h := Aspect.kept_trans (hr a) (setFreeze_kept s₁
    { s₁.inc with freeze := !(decide (two.cls ≠ .uncorrectable) && decide (two.data = 0)) } rfl ha)
  split
  · exact Aspect.kept_trans h (State.storeWord_calm _ _ _ a)
  · exact h

theorem State.scanIntact_kept (s : State) {a : Aspect} (ha : a ≠ .freezeLeft) :
    a.kept s.guarded s.scanIntact.guarded := by
  unfold State.scanIntact
  dsimp only
  have h₃ := (((forEach_calm allSlots State.scanSlot State.scanSlot_calm s).trans
    (forEach_calm allSlots State.scanRepeat State.scanRepeat_calm _)).trans
    (forEach_calm allSlots State.scanDamagedSeq State.scanDamagedSeq_calm _)).trans (State.scanNextSeq_calm _)
  exact Aspect.kept_trans (h₃ a) (State.scanFreeze_kept _ ha)

theorem State.scanLost_kept (s : State) {a : Aspect} (ha : a ≠ .freezeLeft) :
    a.kept s.guarded s.scanLost.guarded := by
  unfold State.scanLost
  extract_lets s₁ s₂
  have h₁ : Calm s s₁ := forEach_calm _ _ (fun _ _ => State.storeWords_calm _ _ _) s
  have h₂ : Calm s s₂ :=
    ((h₁.trans (State.storeWord_calm _ _ _)).trans (State.storeWord_calm _ _ _)).trans (State.storeWord_calm _ _ _)
  clear_value s₂
  refine Aspect.kept_trans (h₂ a) (setFreeze_kept (s₂.setMemLost true) _ ?_ ha)
  rfl

/-- The power-on scan keeps every aspect but the leaving of FREEZE, which it recovers (R157 to R159). -/
theorem State.scan_kept (s : State) {a : Aspect} (ha : a ≠ .freezeLeft) : a.kept s.guarded s.scan.guarded := by
  unfold State.scan
  have hr := s.readWord_calm (retentionAddr 0) a
  dsimp only
  split
  · exact Aspect.kept_trans hr (State.scanIntact_kept _ ha)
  · exact Aspect.kept_trans hr (State.scanLost_kept _ ha)

/-! The warm restart -/

/-- A warm restart keeps every aspect: the axles in LOCKOUT stay there, and the holder sets, FREEZE, the flags,
the masks, the counters and Record Memory are kept (R184, R25, R29, R127, R150). -/
theorem State.warmRestart_calm (s : State) (detail : Byte) : Calm s (s.warmRestart detail) := by
  refine s.truncate_calm.trans fun a => ?_
  cases a
  case lockoutLeft =>
    intro k hk
    have hk' : (s.truncate.slide.axles.get k).state = .lockout := hk
    change ((s.truncate.slide.restart).axles.get k).state = .lockout
    simp [SlideUnit.restart, hk']
  all_goals exact Aspect.kept_of_stands rfl

theorem State.wrstAssert_calm (s : State) : Calm s s.wrstAssert := by
  unfold State.wrstAssert
  split
  · exact s.warmRestart_calm fromWrst
  all_goals exact .refl s

theorem State.restartComplete_guarded (s : State) : s.restartComplete.guarded = s.guarded := by
  unfold State.restartComplete
  split <;> rfl

theorem State.enterService_guarded (s : State) : s.enterService.guarded = s.guarded := rfl

theorem State.scanComplete_kept (s : State) (wrst : Bool) {a : Aspect} (ha : a ≠ .freezeLeft) :
    a.kept s.guarded (s.scanComplete wrst).guarded := by
  unfold State.scanComplete
  split
  · have h : a.kept s.guarded s.scan.enterService.guarded := by
      rw [State.enterService_guarded]
      exact s.scan_kept ha
    dsimp only
    split
    · exact Aspect.kept_trans h (State.warmRestart_calm _ fromWrst a)
    · exact h
  all_goals exact Aspect.kept_refl _ a

/-! The supplies and PORST_N -/

theorem State.porstAssert_guarded (s : State) : s.porstAssert.guarded = s.guarded := by
  unfold State.porstAssert
  dsimp only
  split <;> rfl

/-- A loss of VDD keeps every aspect, Record Memory while VBAK is present (R152). -/
theorem State.powerLoss_kept (s : State) {a : Aspect} (ha : a = .memory → s.vbak = true) :
    a.kept s.guarded s.powerLoss.guarded := by
  have hv : ((s.endCapture.setLinks (.ofFn fun l => (s.links.get l).cutOff)).setPhase .unpowered).vbak = s.vbak :=
    rfl
  unfold State.powerLoss State.retain
  rw [hv]
  split
  · exact Aspect.kept_refl s.guarded a
  · rename_i hn
    cases a
    case memory => exact absurd (ha rfl) hn
    all_goals exact Aspect.kept_of_stands rfl

/-- A loss of VBAK keeps every aspect but Record Memory and VBAK itself (R152; log 27). -/
theorem State.retentionLoss_kept (s : State) {a : Aspect} (hm : a ≠ .memory) (hv : a ≠ .vbakLost) :
    a.kept s.guarded s.retentionLoss.guarded := by
  unfold State.retentionLoss State.retain
  cases a
  case memory => exact absurd rfl hm
  case vbakLost => exact absurd rfl hv
  case vbakBack => split <;> exact fun _ => rfl
  all_goals split <;> exact Aspect.kept_of_stands rfl

/-- The release of PORST_N keeps Record Memory, leaves the holder sets empty and never loses VBAK (R185,
log 27). -/
theorem State.powerOn_kept (s : State) {a : Aspect}
    (ha : a = .memory ∨ a = .vbakLost ∨ (∃ l, a = .penaltyEntered l) ∨ ∃ l, a = .emergencyEntered l) :
    a.kept s.guarded s.powerOn.guarded := by
  obtain rfl | rfl | ⟨l, rfl⟩ | ⟨l, rfl⟩ := ha
  · exact Aspect.kept_of_stands rfl
  · intro h
    have hs : s.vbak = true := h
    change (s.vbak || decide (s.phase = .unpowered)) = true
    rw [hs]
    rfl
  · cases l <;> exact fun _ => rfl
  · cases l <;> exact fun _ => rfl

end Sys2Proof.Machine
end

section
/-! PROOFS. What only certain commands can do: every command keeps each aspect of the guarded part that it is not
one of the certain commands for. -/

namespace Sys2Proof.Machine

/-! Writes of the guarded components -/

/-- Reading a link set after a link is put in or taken out. -/
theorem LinkSet.has_put (x : LinkSet) (l j : LinkId) (b : Bool) :
    (x.put l b).has j = if j = l then b else x.has j := by
  cases l <;> cases j <;> rfl

/-- A counter replaced keeps what its new selection and count keep. -/
theorem State.setCounter_kept (s : State) (i : CounterNo) (c : Counter) {a : Aspect}
    (hc : a = .countFalls → (s.counters.get i).count ≤ c.count)
    (hs : a = .selection → c.sel = (s.counters.get i).sel) :
    a.kept s.guarded (s.setCounter i c).guarded := by
  cases a
  case countFalls =>
    intro n
    change _ ≤ ((s.counters.set i c).get n).count
    rw [PerCounter.get_set]
    split
    · rename_i e
      exact e ▸ hc rfl
    · exact le_refl _
  case selection =>
    intro n
    change ((s.counters.set i c).get n).sel = _
    rw [PerCounter.get_set]
    split
    · rename_i e
      exact e ▸ hs rfl
    · rfl
  all_goals exact Aspect.kept_of_stands rfl

/-- The Exception Unit replaced keeps what its new flags and masks keep. -/
theorem State.setExc_kept (s : State) (e : PerKind ExcEntry) {a : Aspect}
    (hf : a = .flagCleared → ∀ k, (s.exc.get k).source ≠ none → (e.get k).source ≠ none)
    (hm : a = .mask → ∀ k, (e.get k).masked = (s.exc.get k).masked) :
    a.kept s.guarded (s.setExc e).guarded := by
  cases a
  case flagCleared => exact hf rfl
  case mask => exact hm rfl
  all_goals exact Aspect.kept_of_stands rfl

/-- The penalty holder set replaced keeps what its new members keep. -/
theorem State.setPenalty_kept (s : State) (x : LinkSet) {a : Aspect}
    (hl : ∀ j, a = .penaltyLeft j → s.demand.penalty.has j = true → x.has j = true)
    (he : ∀ j, a = .penaltyEntered j → s.demand.penalty.has j = false → x.has j = false) :
    a.kept s.guarded (s.setPenalty x).guarded := by
  cases a
  case penaltyLeft j => exact hl j rfl
  case penaltyEntered j => exact he j rfl
  all_goals exact Aspect.kept_of_stands rfl

/-- The emergency holder set replaced keeps what its new members keep. -/
theorem State.setEmergency_kept (s : State) (x : LinkSet) {a : Aspect}
    (hl : ∀ j, a = .emergencyLeft j → s.demand.emergency.has j = true → x.has j = true)
    (he : ∀ j, a = .emergencyEntered j → s.demand.emergency.has j = false → x.has j = false) :
    a.kept s.guarded (s.setEmergency x).guarded := by
  cases a
  case emergencyLeft j => exact hl j rfl
  case emergencyEntered j => exact he j rfl
  all_goals exact Aspect.kept_of_stands rfl

/-! The holder sets -/

/-- PENALTY_SET keeps every aspect but the entry of its own link (R22). -/
theorem State.penaltyAdd_kept (s : State) (l : LinkId) {a : Aspect} (ha : a ≠ .penaltyEntered l) :
    a.kept s.guarded (s.penaltyAdd l).guarded := by
  have hp : a.kept s.guarded (s.setPenalty (s.demand.penalty.put l true)).guarded := by
    refine s.setPenalty_kept _ (fun j _ hj => ?_) (fun j e hj => ?_)
    · simp [LinkSet.has_put, hj]
    · have hne : j ≠ l := fun h => ha (h ▸ e)
      simp [LinkSet.has_put, hne, hj]
  unfold State.penaltyAdd
  split
  · exact Aspect.kept_refl _ a
  · split
    · exact hp
    · have hd := (s.setPenalty (s.demand.penalty.put l true)).demandChanged_guarded
      exact Aspect.kept_trans hp (Calm.of_guarded hd a)

/-- PENALTY_CLEAR keeps every aspect but the leaving of its own link (R23). -/
theorem State.penaltyRemove_kept (s : State) (l : LinkId) {a : Aspect} (ha : a ≠ .penaltyLeft l) :
    a.kept s.guarded (s.penaltyRemove l).guarded := by
  have hp : a.kept s.guarded (s.setPenalty (s.demand.penalty.put l false)).guarded := by
    refine s.setPenalty_kept _ (fun j e hj => ?_) (fun j _ hj => ?_)
    · have hne : j ≠ l := fun h => ha (h ▸ e)
      simp [LinkSet.has_put, hne, hj]
    · simp [LinkSet.has_put, hj]
  unfold State.penaltyRemove
  dsimp only
  split
  · split
    · exact hp
    · exact Aspect.kept_trans hp (Calm.of_guarded (State.demandChanged_guarded _) a)
  · exact Aspect.kept_refl _ a

/-- PENALTY_RESET keeps every aspect but the leaving of the penalty holders (R24). -/
theorem State.penaltyEmpty_kept (s : State) {a : Aspect} (ha : ∀ l, a ≠ .penaltyLeft l) :
    a.kept s.guarded s.penaltyEmpty.guarded := by
  unfold State.penaltyEmpty
  split
  · refine Aspect.kept_trans (s.setPenalty_kept {} (fun j e => absurd e (ha j)) fun j _ _ => ?_)
      (Calm.of_guarded (State.demandChanged_guarded _) a)
    cases j <;> rfl
  · exact Aspect.kept_refl _ a

/-- EMER_SET keeps every aspect but the entry of its own link (R26). -/
theorem State.emergencyAdd_kept (s : State) (l : LinkId) {a : Aspect} (ha : a ≠ .emergencyEntered l) :
    a.kept s.guarded (s.emergencyAdd l).guarded := by
  have hp : a.kept s.guarded (s.setEmergency (s.demand.emergency.put l true)).guarded := by
    refine s.setEmergency_kept _ (fun j _ hj => ?_) (fun j e hj => ?_)
    · simp [LinkSet.has_put, hj]
    · have hne : j ≠ l := fun h => ha (h ▸ e)
      simp [LinkSet.has_put, hne, hj]
  unfold State.emergencyAdd
  split
  · exact Aspect.kept_refl _ a
  · split
    · exact hp
    · have hd := (s.setEmergency (s.demand.emergency.put l true)).demandChanged_guarded
      exact Aspect.kept_trans hp (Calm.of_guarded hd a)

theorem State.emergencyEndCut_guarded (s : State) (t : Truck) : (s.emergencyEndCut t).guarded = s.guarded := by
  unfold State.emergencyEndCut
  dsimp only
  split <;> rfl

/-- EMER_CLEAR keeps every aspect but the leaving of its own link (R28). -/
theorem State.emergencyRemove_kept (s : State) (l : LinkId) {a : Aspect} (ha : a ≠ .emergencyLeft l) :
    a.kept s.guarded (s.emergencyRemove l).guarded := by
  have hp : a.kept s.guarded (s.setEmergency (s.demand.emergency.put l false)).guarded := by
    refine s.setEmergency_kept _ (fun j e hj => ?_) (fun j _ hj => ?_)
    · have hne : j ≠ l := fun h => ha (h ▸ e)
      simp [LinkSet.has_put, hne, hj]
    · simp [LinkSet.has_put, hj]
  unfold State.emergencyRemove
  dsimp only
  split
  · split
    · exact hp
    · refine Aspect.kept_trans hp (inAnyOrder_calm _ (fun f hf u => ?_) _ a)
      simp only [List.mem_cons, List.not_mem_nil, or_false] at hf
      rcases hf with rfl | rfl | rfl
      · exact .of_guarded u.demandChanged_guarded
      · exact .of_guarded (u.emergencyEndCut_guarded .t1)
      · exact .of_guarded (u.emergencyEndCut_guarded .t2)
  · exact Aspect.kept_refl _ a

theorem State.maintAsk_guarded (s : State) (l : LinkId) (on : Bool) : (s.maintAsk l on).guarded = s.guarded := by
  unfold State.maintAsk
  split
  · rfl
  · exact State.evaluateMode_guarded _

/-! Parameters -/

/-- What an accepted write does beside replacing the parameter keeps every aspect (R9, R35, R82 to R84, R102,
R103, R126, R149, R177). -/
theorem State.applyParam_calm (s : State) (v : Nat) (i : ParamId) : Calm s (s.applyParam v i) := by
  have mapped : ∀ {α : Type} (f : α → State → State), (∀ x u, Calm u (f x u)) → ∀ xs : List α,
      ∀ g ∈ xs.map f, ∀ u, Calm u (g u) := by
    intro α f hf xs g hg
    obtain ⟨x, _, rfl⟩ := List.mem_map.mp hg
    exact hf x
  cases i
  case tFresh =>
    exact (inAnyOrder_calm _ (mapped _ (fun i u => u.freshExpiry_calm i) _) _).after rfl
  case tHold =>
    refine (inAnyOrder_calm _ (fun f hf => ?_) _).after rfl
    rcases List.mem_append.mp hf with hf | hf
    · exact mapped _ (fun i u => .of_guarded (u.holdExpiry_guarded i)) _ f hf
    · exact mapped _ (fun i u => .of_guarded (u.goodHoldExpiry_guarded i)) _ f hf
  case dMax | penEffort => exact .of_guarded s.demandChanged_guarded
  case pServiceMax =>
    refine forEach_calm _ _ (fun t u => ?_) s
    split
    · exact .of_guarded (u.reduceTruckByTable_guarded t _)
    · exact .refl u
  case pEmer =>
    refine forEach_calm _ _ (fun t u => ?_) s
    exact .of_guarded rfl
  case shortTime =>
    unfold State.applyParam State.applyShortTime
    dsimp only
    split
    · exact (State.shortfallExpiry_calm _).after rfl
    · exact .of_guarded rfl
  case devTime => exact inAnyOrder_calm _ (mapped _ (fun t u => u.deviationAtOnce_calm t) _) s
  case zeroTime =>
    refine (inAnyOrder_calm _ (mapped _ (fun k u => .of_guarded (u.zeroExpiry_guarded k)) _) _).after ?_
    refine forEach_guarded _ _ (fun k u => ?_) s
    rfl
  case openTime =>
    refine (inAnyOrder_calm _ (mapped _ (fun k u => u.openTachExpiry_calm k) _) _).after ?_
    refine forEach_guarded _ _ (fun k u => ?_) s
    rfl
  case stillTime =>
    unfold State.applyParam State.applyStillTime
    dsimp only
    split
    · exact .of_guarded (State.stillExpiry_guarded _)
    · exact .of_guarded rfl
  case lockCount =>
    intro a
    cases a
    case lockoutLeft =>
      intro k hk
      simpa [State.guarded, State.applyParam, State.applyLockCount] using hk
    all_goals exact Aspect.kept_of_stands rfl
  case linkTimeout l =>
    unfold State.applyParam State.applyLinkTimeout
    dsimp only
    split
    · exact (State.linkDown_calm _ l 1).after rfl
    · exact .of_guarded rfl
  all_goals exact .refl s

/-- An accepted write of a parameter keeps every aspect but the parameters (R183). -/
theorem State.writeParam_kept (s : State) (i : ParamId) (v : Nat) {a : Aspect} (ha : a ≠ .parameters) :
    a.kept s.guarded (s.writeParam i v).guarded := by
  refine Aspect.kept_trans (y := (s.setParams (s.params.set v i)).guarded) ?_ (State.applyParam_calm _ v i a)
  cases a
  case parameters => exact absurd rfl ha
  all_goals exact Aspect.kept_of_stands rfl

/-! Requests and expiries -/

/-- What a request's own rule keeps, its whole service keeps (R173, R175, R179). -/
theorem State.serve_kept (s : State) (kind : Byte) (r : Req) (body : State → Answer) {a : Aspect}
    (h : ∀ u : State, u.demand = s.demand → a.kept u.guarded (body u).state.guarded) :
    a.kept s.guarded (s.serve kind r body).guarded := by
  have take : a.kept (s.arrive r.link).guarded ((s.arrive r.link).take kind r body).state.guarded := by
    unfold State.take
    split
    · exact Aspect.kept_refl _ a
    · split
      · exact Aspect.kept_refl _ a
      · refine h _ ?_
        obtain ⟨x, b, y, e⟩ := s.arrive_frame r.link
        rw [e]
        rfl
  have conclude : ∀ x : Answer, (x.conclude kind r).guarded = x.state.guarded := by
    intro x
    unfold Answer.conclude
    split
    · exact State.respond_guarded _ _ _
    · rfl
  unfold State.serve
  split
  · split
    · exact Aspect.kept_refl s.guarded a
    · rw [conclude, ← s.arrive_guarded r.link]
      exact take
  · exact Aspect.kept_refl _ a

/-- A request whose own rule keeps every aspect keeps every aspect. -/
theorem State.serve_calm (s : State) (kind : Byte) (r : Req) (body : State → Answer)
    (h : ∀ u, Calm u (body u).state) : Calm s (s.serve kind r body) :=
  fun a => s.serve_kept kind r body fun u _ => h u a

theorem State.ifInService_calm (s : State) (f : State → State) (h : ∀ u, Calm u (f u)) :
    Calm s (s.ifInService f) := by
  unfold State.ifInService
  split
  · exact h s
  · exact .refl s

theorem State.expire_calm (s : State) (c : Instr) (f : State → State) (h : ∀ u, Calm u (f u)) :
    Calm s (s.expire c f) := by
  refine s.ifInService_calm _ fun u => ?_
  split
  · exact h u
  · exact .refl u

/-! The answers of the requests that keep every aspect -/

theorem readCounterAnswer_calm (r : Req) (u : State) : Calm u (readCounterAnswer r u).state := by
  unfold readCounterAnswer
  split <;> exact .refl u

theorem modeAnswer_calm (r : Req) (u : State) : Calm u (modeAnswer r u).state := by
  unfold modeAnswer
  split
  · exact .refl u
  · exact .of_guarded (u.maintAsk_guarded _ _)

theorem writeResAnswer_calm (r : Req) (u : State) : Calm u (writeResAnswer r u).state := by
  unfold writeResAnswer
  split
  · split
    · exact .refl u
    · split
      · exact .refl u
      · exact .of_guarded (u.writeResource_guarded _ _ _)
  · exact .refl u

theorem readResAnswer_calm (r : Req) (u : State) : Calm u (readResAnswer r u).state := by
  unfold readResAnswer
  split <;> exact .refl u

theorem readAllocAnswer_calm (r : Req) (u : State) : Calm u (readAllocAnswer r u).state := by
  unfold readAllocAnswer
  split <;> exact .refl u

theorem readStatusAnswer_calm (r : Req) (u : State) : Calm u (readStatusAnswer r u).state := by
  unfold readStatusAnswer
  split <;> exact .refl u

theorem readAxleAnswer_calm (r : Req) (u : State) : Calm u (readAxleAnswer r u).state := by
  unfold readAxleAnswer
  split <;> exact .refl u

theorem readParamAnswer_calm (r : Req) (u : State) : Calm u (readParamAnswer r u).state := by
  unfold readParamAnswer
  split <;> exact .refl u

theorem markAnswer_calm (r : Req) (u : State) : Calm u (markAnswer r u).state := by
  unfold markAnswer
  split
  · exact .refl u
  · exact u.takeTrigger_calm _ _

theorem readIncHeaderAnswer_calm (r : Req) (u : State) : Calm u (readIncHeaderAnswer r u).state := by
  unfold readIncHeaderAnswer
  split
  · exact .refl u
  · exact u.readHeader_calm _ _

theorem readIncSnapAnswer_calm (r : Req) (u : State) : Calm u (readIncSnapAnswer r u).state := by
  unfold readIncSnapAnswer
  split
  · exact .refl u
  · repeat' split
    · exact .refl u
    · exact .refl u
    · exact .refl u
    · exact u.readSnap_calm _ _ _

theorem restartAnswer_calm (u : State) : Calm u (restartAnswer u).state := by
  unfold restartAnswer
  split
  · exact u.warmRestart_calm _
  · exact .refl u

/-! The answers of the certain requests -/

theorem atStandstill_kept (u : State) (x : Answer) {a : Aspect} (h : a.kept u.guarded x.state.guarded) :
    a.kept u.guarded (atStandstill u x).state.guarded := by
  unfold atStandstill
  split
  · exact h
  · exact Aspect.kept_refl _ a

/-- SET_COUNTER keeps every aspect but the selections (R165). -/
theorem setCounterAnswer_kept (r : Req) (u : State) {a : Aspect} (ha : a ≠ .selection) :
    a.kept u.guarded (setCounterAnswer r u).state.guarded := by
  unfold setCounterAnswer
  split
  · exact Aspect.kept_refl _ a
  · split
    · exact Aspect.kept_refl _ a
    · exact u.setCounter_kept _ _ (fun _ => le_refl _) (fun e => absurd e ha)

/-- CLEAR_COUNTER keeps every aspect but the counts (R167). -/
theorem clearCounterAnswer_kept (r : Req) (u : State) {a : Aspect} (ha : a ≠ .countFalls) :
    a.kept u.guarded (clearCounterAnswer r u).state.guarded := by
  unfold clearCounterAnswer
  split
  · exact Aspect.kept_refl _ a
  · split
    · exact Aspect.kept_refl _ a
    · exact u.setCounter_kept _ _ (fun e => absurd e ha) (fun _ => rfl)

/-- WRITE_PARAM keeps every aspect but the parameters (R183). -/
theorem writeParamAnswer_kept (r : Req) (u : State) {a : Aspect} (ha : a ≠ .parameters) :
    a.kept u.guarded (writeParamAnswer r u).state.guarded := by
  unfold writeParamAnswer
  split
  · exact Aspect.kept_refl _ a
  · split
    · exact Aspect.kept_refl _ a
    · split
      · exact Aspect.kept_refl _ a
      · exact u.writeParam_kept _ _ ha

/-- SET_MASK keeps every aspect but the masks (R17). -/
theorem setMaskAnswer_kept (r : Req) (u : State) {a : Aspect} (ha : a ≠ .mask) :
    a.kept u.guarded (setMaskAnswer r u).state.guarded := by
  unfold setMaskAnswer
  split
  · exact Aspect.kept_refl _ a
  · exact u.setExc_kept _ (fun _ k hk => by simpa [setMasks] using hk) (fun e => absurd e ha)

/-- CLEAR_EXC keeps every aspect but the flags (R16). -/
theorem clearExcAnswer_kept (r : Req) (u : State) {a : Aspect} (ha : a ≠ .flagCleared) :
    a.kept u.guarded (clearExcAnswer r u).state.guarded := by
  unfold clearExcAnswer
  split
  · exact Aspect.kept_refl _ a
  · refine u.setExc_kept _ (fun e => absurd e ha) (fun _ k => ?_)
    simp only [clearKinds, PerKind.get_ofFn]
    split <;> rfl

/-- SET_TRIGGERS keeps every aspect but the trigger enable set (R131). -/
theorem setTriggersAnswer_kept (r : Req) (u : State) {a : Aspect} (ha : a ≠ .enableSet) :
    a.kept u.guarded (setTriggersAnswer r u).state.guarded := by
  unfold setTriggersAnswer answerOk
  cases a
  case enableSet => exact absurd rfl ha
  all_goals exact Aspect.kept_of_stands rfl

/-- FREEZE_RELEASE keeps every aspect but the leaving of FREEZE (R144). -/
theorem freezeReleaseAnswer_kept (u : State) {a : Aspect} (ha : a ≠ .freezeLeft) :
    a.kept u.guarded (freezeReleaseAnswer u).state.guarded := by
  unfold freezeReleaseAnswer
  split
  · exact Aspect.kept_refl _ a
  · unfold answerOk State.leaveFreeze
    dsimp only
    split
    · exact Aspect.kept_trans (setFreeze_kept u { u.inc with freeze := false } rfl ha) (State.storeWord_calm _ _ _ a)
    · exact Aspect.kept_refl _ a

/-- An axle replaced in the Slide Unit keeps every aspect but the leaving of LOCKOUT. -/
theorem State.setSlideAxle_kept (s : State) (k : Axle) (x : SlideAxle) {a : Aspect} (ha : a ≠ .lockoutLeft) :
    a.kept s.guarded (s.setSlideAxle k x).guarded := by
  cases a
  case lockoutLeft => exact absurd rfl ha
  all_goals exact Aspect.kept_of_stands rfl

/-- CLEAR_LOCKOUT keeps every aspect but the leaving of LOCKOUT (R119). -/
theorem clearLockoutAnswer_kept (r : Req) (u : State) {a : Aspect} (ha : a ≠ .lockoutLeft) :
    a.kept u.guarded (clearLockoutAnswer r u).state.guarded := by
  unfold clearLockoutAnswer
  split
  · exact Aspect.kept_refl _ a
  · rename_i k _
    split
    · exact Aspect.kept_refl _ a
    · split
      · exact Aspect.kept_refl _ a
      · refine Aspect.kept_trans (u.setSlideAxle_kept k
          { (u.slide.axles.get k).enter u.now .normal 1000 with history := [] } ha) ?_
        exact (((State.rederiveAction_calm _ (truckOf k)).then (State.refreshLockout_guarded _ k)).then
          (State.actionCut_guarded _ _ _)) a

/-- DIAG_SELECT keeps every aspect but the diagnostic selection (R160). -/
theorem diagSelectAnswer_kept (r : Req) (u : State) {a : Aspect} (ha : a ≠ .diagnostic) :
    a.kept u.guarded (diagSelectAnswer r u).state.guarded := by
  unfold diagSelectAnswer
  split
  · exact Aspect.kept_refl _ a
  · unfold answerOk
    cases a
    case diagnostic => exact absurd rfl ha
    all_goals exact Aspect.kept_of_stands rfl

/-- DIAG_WRITE keeps every aspect but Record Memory, and that one too outside MAINT (R162). -/
theorem diagWriteAnswer_kept (r : Req) (u : State) {a : Aspect} (ha : a = .memory → u.demand.mode ≠ .maint) :
    a.kept u.guarded (diagWriteAnswer r u).state.guarded := by
  unfold diagWriteAnswer
  split
  · exact Aspect.kept_refl _ a
  · rename_i hm
    split
    · exact Aspect.kept_refl _ a
    · split
      · exact Aspect.kept_refl _ a
      · unfold answerOk
        cases a
        case memory => exact absurd (ha rfl) hm
        all_goals exact Aspect.kept_of_stands rfl

/-! Every command -/

/-- The certain commands for each aspect, as `Obligations.OnlyTheseCommands` names them. -/
def mayChange (s : State) (c : Instr) : Aspect → Prop
  | .countFalls => (∃ r, c = .clearCounter r) ∨ c = .powerOn
  | .selection => (∃ r, c = .setCounter r) ∨ c = .powerOn
  | .lockoutLeft => (∃ r, c = .clearLockout r) ∨ c = .powerOn
  | .penaltyLeft l => (∃ r, c = .penaltyClear r ∧ r.link = l) ∨ (∃ r, c = .penaltyReset r) ∨ c = .powerOn
  | .penaltyEntered l => ∃ r, c = .penaltySet r ∧ r.link = l
  | .emergencyLeft l => (∃ r, c = .emerClear r ∧ r.link = l) ∨ c = .powerOn
  | .emergencyEntered l => ∃ r, c = .emerSet r ∧ r.link = l
  | .freezeLeft => (∃ r, c = .freezeRelease r) ∨ c = .powerOn ∨ ∃ w, c = .powerOnScanComplete w
  | .flagCleared => (∃ r, c = .clearExc r) ∨ c = .powerOn
  | .mask => (∃ r, c = .setMask r) ∨ c = .powerOn
  | .enableSet => (∃ r, c = .setTriggers r) ∨ c = .powerOn
  | .parameters => (∃ r, c = .writeParam r) ∨ c = .powerOn
  | .diagnostic => (∃ r, c = .diagSelect r) ∨ c = .powerOn
  | .memory => ((∃ r, c = .diagWrite r) ∧ s.demand.mode = .maint) ∨ c = .retentionSupplyLoss ∨
      (c = .powerLoss ∧ s.vbak = false)
  | .vbakLost => c = .retentionSupplyLoss
  | .vbakBack => c = .powerOn

/-- An aspect that POWER_ON is not named for is one that it keeps. -/
theorem not_mayChange_powerOn {s : State} {a : Aspect} (h : ¬mayChange s .powerOn a) :
    a = .memory ∨ a = .vbakLost ∨ (∃ l, a = .penaltyEntered l) ∨ ∃ l, a = .emergencyEntered l := by
  cases a <;> simp_all [mayChange]

/-- What the next state keeps, `exec` keeps. -/
theorem kept_of_next {s x t : State} {a : Aspect} (h : (.next x : Result) = .next t)
    (hx : a.kept s.guarded x.guarded) : a.kept s.guarded t.guarded := by
  cases h
  exact hx

/-- Every command keeps each aspect that it is not one of the certain commands for. -/
theorem exec_kept {c : Instr} {s t : State} (h : exec c s = .next t) {a : Aspect} (ha : ¬mayChange s c a) :
    a.kept s.guarded t.guarded := by
  cases c
  -- the requests
  case nop r => exact kept_of_next h (s.serve_calm 1 r _ (fun u => .refl u) a)
  case postDb r => exact kept_of_next h (s.serve_calm 16 r _ (fun u => u.post_calm r _) a)
  case postAvail r => exact kept_of_next h (s.serve_calm 17 r _ (fun u => u.post_calm r _) a)
  case postAchieved r => exact kept_of_next h (s.serve_calm 18 r _ (fun u => u.post_calm r _) a)
  case postGround r => exact kept_of_next h (s.serve_calm 19 r _ (fun u => u.post_calm r _) a)
  case postAuto r => exact kept_of_next h (s.serve_calm 20 r _ (fun u => u.post_calm r _) a)
  case postInd r => exact kept_of_next h (s.serve_calm 21 r _ (fun u => u.post_calm r _) a)
  case postPressure r => exact kept_of_next h (s.serve_calm 22 r _ (fun u => u.post_calm r _) a)
  case penaltySet r =>
    have hne : a ≠ .penaltyEntered r.link := fun e => ha (e ▸ ⟨r, rfl, rfl⟩)
    exact kept_of_next h (s.serve_kept 32 r _ fun u _ => u.penaltyAdd_kept r.link hne)
  case penaltyClear r =>
    have hne : a ≠ .penaltyLeft r.link := fun e => ha (e ▸ .inl ⟨r, rfl, rfl⟩)
    exact kept_of_next h (s.serve_kept 33 r _ fun u _ => u.penaltyRemove_kept r.link hne)
  case penaltyReset r =>
    have hne : ∀ l, a ≠ .penaltyLeft l := fun l e => ha (e ▸ .inr (.inl ⟨r, rfl⟩))
    exact kept_of_next h (s.serve_kept 34 r _ fun u _ => atStandstill_kept u _ (u.penaltyEmpty_kept hne))
  case emerSet r =>
    have hne : a ≠ .emergencyEntered r.link := fun e => ha (e ▸ ⟨r, rfl, rfl⟩)
    exact kept_of_next h (s.serve_kept 35 r _ fun u _ => u.emergencyAdd_kept r.link hne)
  case emerClear r =>
    have hne : a ≠ .emergencyLeft r.link := fun e => ha (e ▸ .inl ⟨r, rfl, rfl⟩)
    exact kept_of_next h (s.serve_kept 36 r _ fun u _ => atStandstill_kept u _ (u.emergencyRemove_kept r.link hne))
  case modeReq r => exact kept_of_next h (s.serve_calm 37 r _ (modeAnswer_calm r) a)
  case writeRes r => exact kept_of_next h (s.serve_calm 48 r _ (writeResAnswer_calm r) a)
  case readRes r => exact kept_of_next h (s.serve_calm 49 r _ (readResAnswer_calm r) a)
  case readAlloc r => exact kept_of_next h (s.serve_calm 50 r _ (readAllocAnswer_calm r) a)
  case readStatus r => exact kept_of_next h (s.serve_calm 51 r _ (readStatusAnswer_calm r) a)
  case readAxle r => exact kept_of_next h (s.serve_calm 52 r _ (readAxleAnswer_calm r) a)
  case readParam r => exact kept_of_next h (s.serve_calm 53 r _ (readParamAnswer_calm r) a)
  case writeParam r =>
    have hne : a ≠ .parameters := fun e => ha (e ▸ .inl ⟨r, rfl⟩)
    exact kept_of_next h (s.serve_kept 64 r _ fun u _ => writeParamAnswer_kept r u hne)
  case setMask r =>
    have hne : a ≠ .mask := fun e => ha (e ▸ .inl ⟨r, rfl⟩)
    exact kept_of_next h (s.serve_kept 65 r _ fun u _ => setMaskAnswer_kept r u hne)
  case clearExc r =>
    have hne : a ≠ .flagCleared := fun e => ha (e ▸ .inl ⟨r, rfl⟩)
    exact kept_of_next h (s.serve_kept 66 r _ fun u _ => clearExcAnswer_kept r u hne)
  case setTriggers r =>
    have hne : a ≠ .enableSet := fun e => ha (e ▸ .inl ⟨r, rfl⟩)
    exact kept_of_next h (s.serve_kept 67 r _ fun u _ => setTriggersAnswer_kept r u hne)
  case mark r => exact kept_of_next h (s.serve_calm 68 r _ (markAnswer_calm r) a)
  case freezeRelease r =>
    have hne : a ≠ .freezeLeft := fun e => ha (e ▸ .inl ⟨r, rfl⟩)
    exact kept_of_next h (s.serve_kept 69 r _ fun u _ => freezeReleaseAnswer_kept u hne)
  case clearLockout r =>
    have hne : a ≠ .lockoutLeft := fun e => ha (e ▸ .inl ⟨r, rfl⟩)
    exact kept_of_next h (s.serve_kept 70 r _ fun u _ => clearLockoutAnswer_kept r u hne)
  case readIncStatus r => exact kept_of_next h (s.serve_calm 80 r _ (fun u => .of_guarded rfl) a)
  case readIncHeader r => exact kept_of_next h (s.serve_calm 81 r _ (readIncHeaderAnswer_calm r) a)
  case readIncSnap r => exact kept_of_next h (s.serve_calm 82 r _ (readIncSnapAnswer_calm r) a)
  case setCounter r =>
    have hne : a ≠ .selection := fun e => ha (e ▸ .inl ⟨r, rfl⟩)
    exact kept_of_next h (s.serve_kept 96 r _ fun u _ => setCounterAnswer_kept r u hne)
  case clearCounter r =>
    have hne : a ≠ .countFalls := fun e => ha (e ▸ .inl ⟨r, rfl⟩)
    exact kept_of_next h (s.serve_kept 97 r _ fun u _ => clearCounterAnswer_kept r u hne)
  case readCounter r => exact kept_of_next h (s.serve_calm 98 r _ (readCounterAnswer_calm r) a)
  case diagSelect r =>
    have hne : a ≠ .diagnostic := fun e => ha (e ▸ .inl ⟨r, rfl⟩)
    exact kept_of_next h (s.serve_kept 112 r _ fun u _ => diagSelectAnswer_kept r u hne)
  case diagRead r => exact kept_of_next h (s.serve_calm 113 r _ (fun u => .refl u) a)
  case diagWrite r =>
    have hne : ∀ u : State, u.demand = s.demand → a = .memory → u.demand.mode ≠ .maint :=
      fun u hu e hm => ha (e ▸ .inl ⟨⟨r, rfl⟩, hu ▸ hm⟩)
    exact kept_of_next h (s.serve_kept 114 r _ fun u hu => diagWriteAnswer_kept r u (hne u hu))
  case restart r => exact kept_of_next h (s.serve_calm 128 r _ restartAnswer_calm a)
  case unknownRequestKind kind r =>
    change execUnknownRequestKind kind r s = _ at h
    unfold execUnknownRequestKind at h
    split at h
    · cases h
    · exact kept_of_next h (s.serve_calm kind r _ (fun u => .refl u) a)
  -- the links and the timers
  case frameCheckFailure l => exact kept_of_next h (s.ifInService_calm _ (fun u => u.frameFailure_calm l) a)
  case transferAbort l =>
    refine kept_of_next h ?_
    split
    · exact Calm.of_guarded (s.transferAbort_guarded l) a
    · exact Aspect.kept_refl s.guarded a
  case transferStart l => exact kept_of_next h (Calm.of_guarded (s.transferStart_guarded l) a)
  case linkTimeoutExpiry l => exact kept_of_next h (s.expire_calm _ _ (fun u => u.linkDown_calm l 1) a)
  case freshExpiry i => exact kept_of_next h (s.expire_calm _ _ (fun u => u.freshExpiry_calm i) a)
  case holdExpiry i =>
    exact kept_of_next h (s.expire_calm _ _ (fun u => .of_guarded (u.holdExpiry_guarded i)) a)
  case goodHoldExpiry i =>
    exact kept_of_next h (s.expire_calm _ _ (fun u => .of_guarded (u.goodHoldExpiry_guarded i)) a)
  case blendPeriodExpiry => exact kept_of_next h (s.expire_calm _ _ (fun u => u.compute_calm) a)
  case shortfallTimerExpiry => exact kept_of_next h (s.expire_calm _ _ (fun u => u.shortfallExpiry_calm) a)
  case airDeviationTimerExpiry t =>
    exact kept_of_next h (s.expire_calm _ _ (fun u => u.deviationExpiry_calm t) a)
  case tachQualification k high =>
    exact kept_of_next h (s.ifInService_calm _ (fun u => .of_guarded (u.tachSample_guarded k high)) a)
  case tachSample k high =>
    exact kept_of_next h (s.ifInService_calm _ (fun u => .of_guarded (u.tachSample_guarded k high)) a)
  case windowExpiry k => exact kept_of_next h (s.expire_calm _ _ (fun u => u.windowExpiry_calm k) a)
  case zeroTimerExpiry k =>
    exact kept_of_next h (s.expire_calm _ _ (fun u => .of_guarded (u.zeroExpiry_guarded k)) a)
  case openTachTimerExpiry k => exact kept_of_next h (s.expire_calm _ _ (fun u => u.openTachExpiry_calm k) a)
  case standstillTimerExpiry =>
    exact kept_of_next h (s.expire_calm _ _ (fun u => .of_guarded u.stillExpiry_guarded) a)
  case dumpTimerExpiry t => exact kept_of_next h (s.expire_calm _ _ (fun u => u.dumpExpiry_calm t) a)
  case sampleTimerExpiry =>
    change execSampleTimerExpiry s = _ at h
    unfold execSampleTimerExpiry at h
    split at h
    · split at h
      · cases h
      · exact kept_of_next h (s.sampleExpiry_calm a)
    · exact kept_of_next h (Aspect.kept_refl _ a)
  case incidentTrigger c d => exact kept_of_next h (s.ifInService_calm _ (fun u => u.triggerArrives_calm c d) a)
  -- the resets and the supplies
  case porstNAssert => exact kept_of_next h (Calm.of_guarded s.porstAssert_guarded a)
  case powerOn => exact kept_of_next h (s.powerOn_kept (not_mayChange_powerOn ha))
  case powerOnScanComplete w =>
    have hne : a ≠ .freezeLeft := fun e => ha (e ▸ .inr (.inr ⟨w, rfl⟩))
    exact kept_of_next h (s.scanComplete_kept w hne)
  case wrstNAssert => exact kept_of_next h (s.wrstAssert_calm a)
  case warmRestartComplete => exact kept_of_next h (Calm.of_guarded s.restartComplete_guarded a)
  case powerLoss =>
    refine kept_of_next h (s.powerLoss_kept fun e => ?_)
    by_contra hv
    exact ha (e ▸ .inr (.inr ⟨rfl, Bool.not_eq_true _ ▸ hv⟩))
  case retentionSupplyLoss =>
    have hm : a ≠ .memory := fun e => ha (e ▸ .inr (.inl rfl))
    have hv : a ≠ .vbakLost := fun e => ha (e ▸ rfl)
    exact kept_of_next h (s.retentionLoss_kept hm hv)

/-- A command that an aspect is not kept by is one of the certain commands for it. -/
theorem mayChange_of_not_kept {c : Instr} {s t : State} (h : exec c s = .next t) (a : Aspect)
    (hn : ¬a.kept s.guarded t.guarded) : mayChange s c a :=
  by_contra fun hc => hn (exec_kept h hc)

/-- Settles O60: every command keeps each aspect of the guarded part that it is not named for. -/
theorem onlyTheseCommands : Obligations.OnlyTheseCommands := by
  intro c s t h
  have may := mayChange_of_not_kept h
  refine ⟨fun n hn => ?_, fun n hn => ?_, fun k hk hn => ?_, fun l hl hn => ?_, fun l hl hn => ?_,
    fun l hl hn => ?_, fun l hl hn => ?_, fun hf hn => ?_, fun k hk hn => ?_, fun k hn => ?_, may .enableSet,
    may .parameters, may .diagnostic, fun hw b hb => ?_, fun hv hn => ?_, fun hv hn => ?_⟩
  · exact may .countFalls fun g => absurd (g n) (Nat.not_le.mpr hn)
  · exact may .selection fun g => hn (g n)
  · exact may .lockoutLeft fun g => hn (g k hk)
  · exact may (.penaltyLeft l) fun g => Bool.false_ne_true (hn.symm.trans (g hl))
  · exact may (.penaltyEntered l) fun g => Bool.false_ne_true ((g hl).symm.trans hn)
  · exact may (.emergencyLeft l) fun g => Bool.false_ne_true (hn.symm.trans (g hl))
  · exact may (.emergencyEntered l) fun g => Bool.false_ne_true ((g hl).symm.trans hn)
  · exact may .freezeLeft fun g => Bool.false_ne_true (hn.symm.trans (g hf))
  · exact may .flagCleared fun g => g k hk hn
  · exact may .mask fun g => hn (g k)
  · by_cases hd : ∃ d, t.mem.read b = protect d
    · exact .inl hd
    · exact .inr (may .memory fun g => hd ((g hw).2 b hb))
  · exact may .vbakLost fun g => Bool.false_ne_true (hn.symm.trans (g hv))
  · exact may .vbakBack fun g => Bool.false_ne_true ((g hv).symm.trans hn)

end Sys2Proof.Machine
end

section
/-! PROOFS. The posted values: what postings classify and lead to, what each class substitutes, the expiries of
the age timers and of the Blend Unit's timers, and the masks and flags. -/

namespace Sys2Proof.Machine

/-! Expiries -/

/-- An expiry that is due happens (log 3). -/
theorem State.expire_due {s : State} {c : Instr} (f : State → State) (hp : s.phase = .running)
    (hd : s.due c = true) : s.expire c f = f s := by
  simp [State.expire, State.ifInService, State.inService, hp, hd]

/-- An expiry that is not due does not happen (log 3). -/
theorem State.expire_not_due {s : State} {c : Instr} (f : State → State) (hd : s.due c = false) :
    s.expire c f = s := by
  simp [State.expire, State.ifInService, hd]

/-- See `State.expire_due`; what `exec` answers. -/
theorem next_expire_due {s : State} {c : Instr} (f : State → State) (hp : s.phase = .running)
    (hd : s.due c = true) : (.next (s.expire c f) : Result) = .next (f s) := by
  rw [State.expire_due f hp hd]

/-- See `State.expire_not_due`; what `exec` answers. -/
theorem next_expire_not_due {s : State} {c : Instr} (f : State → State) (hd : s.due c = false) :
    (.next (s.expire c f) : Result) = .next s := by
  rw [State.expire_not_due f hd]

/-- The statements and the model mean the same by a timer whose run has passed. -/
theorem State.passed_eq_runOver (s : State) (t : Option Timer) : s.passed t = s.runOver t := by
  cases t <;> rfl

/-- A timer whose run has passed is running. -/
theorem State.isSome_of_runOver {s : State} {t : Option Timer} (h : s.runOver t = true) : t.isSome = true := by
  cases t
  · cases h
  · rfl

/-! The age timers (R6, R7) -/

/-- A fresh expiry that finds a VALID or CLAMPED item is an occurrence of INPUT_STALE (R6). -/
theorem State.freshExpiry_raised (s : State) (i : Item) (h : (s.posted.get i).mayStale = true) :
    Raised (s.setPosted (s.posted.set i { s.posted.get i with cls := .stale, fresh := none })) (s.freshExpiry i)
      .stale (itemCode i) := by
  unfold State.freshExpiry
  dsimp only
  rw [if_pos h]
  exact State.occur_raised _ _ _

/-- A fresh expiry on an item of another class has no effect (R6). -/
theorem State.freshExpiry_other (s : State) (i : Item) (h : (s.posted.get i).mayStale = false) :
    s.freshExpiry i = s := by
  simp [State.freshExpiry, h]

/-- When a fresh expiry finds a VALID or CLAMPED item. -/
theorem PostedItem.mayStale_iff (x : PostedItem) :
    x.mayStale = true ↔ x.fresh.isSome = true ∧ (x.cls = .valid ∨ x.cls = .clamped) := by
  simp [PostedItem.mayStale]

/-- What a hold expiry leaves (R7, R12; log 30). -/
theorem State.holdExpiry_taken (i : Item) (s : State) : HoldTaken i s (s.holdExpiry i) := by
  have hm : (s.posted.get i).mayAbsent = true ↔
      (s.posted.get i).hold ≠ none ∧ ((s.posted.get i).cls = .stale ∨ (s.posted.get i).cls = .fault) := by
    simp [PostedItem.mayAbsent, Option.isSome_iff_ne_none]
  unfold HoldTaken State.holdExpiry
  dsimp only
  by_cases h : (s.posted.get i).mayAbsent = true
  · rw [if_pos h, if_pos (hm.mp h)]
    exact State.handPosted_handed _ _
  · rw [if_neg h, if_neg fun g => h (hm.mpr g)]

/-- What a good-hold expiry leaves (R7, R12; log 30). -/
theorem State.goodHoldExpiry_taken (i : Item) (s : State) : GoodHoldTaken i s (s.goodHoldExpiry i) := by
  have hm : (s.posted.get i).mayUnback = true ↔
      (s.posted.get i).goodHold ≠ none ∧ (s.posted.get i).cls ≠ .valid ∧ (s.posted.get i).cls ≠ .clamped := by
    simp [PostedItem.mayUnback, Option.isSome_iff_ne_none, and_assoc]
  unfold GoodHoldTaken State.goodHoldExpiry
  dsimp only
  by_cases h : (s.posted.get i).mayUnback = true
  · rw [if_pos h, if_pos (hm.mp h)]
    exact State.handPosted_handed _ _
  · rw [if_neg h, if_neg fun g => h (hm.mpr g)]

/-! Substituted values and worst classes (R10, R11) -/

/-- The more severe of two classes has the greater code (R11). -/
theorem clsCode_worse (x y : Cls) : clsCode (worse x y) = max (clsCode x) (clsCode y) := by
  unfold worse
  split <;> omega

/-- VALID is the least severe class. -/
theorem worse_valid (x : Cls) : worse .valid x = x := by cases x <;> rfl

/-- The more severe of two classes is one of them. -/
theorem worse_eq (x y : Cls) : worse x y = x ∨ worse x y = y := by
  unfold worse
  split <;> simp

/-- The worst class of two items (R11). -/
theorem clsCode_worstOf_pair (x y : PostedItem) :
    clsCode (worstOf [x, y]) = max (clsCode x.cls) (clsCode y.cls) := by
  simp [worstOf, worse_valid, clsCode_worse]

/-- Every item of a list, and the class that it begins with, is at most as severe as the worst; and the worst is
the class of one of them (R11). -/
theorem foldl_worse (xs : List PostedItem) : ∀ c : Cls,
    clsCode c ≤ clsCode (xs.foldl (fun c x => worse c x.cls) c) ∧
    (∀ x ∈ xs, clsCode x.cls ≤ clsCode (xs.foldl (fun c x => worse c x.cls) c)) ∧
    (xs.foldl (fun c x => worse c x.cls) c = c ∨ ∃ x ∈ xs, xs.foldl (fun c x => worse c x.cls) c = x.cls) := by
  induction xs with
  | nil => exact fun c => ⟨le_refl _, by simp, .inl rfl⟩
  | cons y xs ih =>
    intro c
    obtain ⟨hc, hx, he⟩ := ih (worse c y.cls)
    rw [clsCode_worse] at hc
    rw [List.foldl_cons]
    refine ⟨by omega, fun x h => ?_, ?_⟩
    · rcases List.mem_cons.mp h with rfl | h
      · omega
      · exact hx x h
    · rcases he with he | ⟨x, h, he⟩
      · rw [he]
        rcases worse_eq c y.cls with e | e
        · exact .inl e
        · exact .inr ⟨y, by simp, e⟩
      · exact .inr ⟨x, by simp [h], he⟩

/-- The worst class over the axles is that of one axle, and no axle's is more severe (R11). -/
theorem worstOf_axles (f : Axle → PostedItem) :
    (∀ k, clsCode (f k).cls ≤ clsCode (worstOf (allAxles.map f))) ∧
    ∃ k, worstOf (allAxles.map f) = (f k).cls := by
  obtain ⟨_, hx, he⟩ := foldl_worse (allAxles.map f) .valid
  have hle : ∀ k, clsCode (f k).cls ≤ clsCode (worstOf (allAxles.map f)) :=
    fun k => hx _ (List.mem_map.mpr ⟨k, mem_allAxles k, rfl⟩)
  refine ⟨hle, ?_⟩
  rcases he with he | ⟨x, h, he⟩
  · have hv : worstOf (allAxles.map f) = .valid := he
    refine ⟨.a1, ?_⟩
    have := hle .a1
    rw [hv] at this ⊢
    cases hc : (f .a1).cls <;> simp [hc, clsCode] at this ⊢
  · obtain ⟨k, _, rfl⟩ := List.mem_map.mp h
    exact ⟨k, he⟩

/-- What each class substitutes (Table 1-4). -/
theorem PostedItem.substituted (x : PostedItem) :
    let last := x.last.getD 0
    (x.cls = .valid ∨ x.cls = .clamped → x.demandValue = last ∧ x.effortValue = last ∧
      x.pressureValue = some last ∧ x.groundValue = some last) ∧
    (x.cls = .stale → x.demandValue = last ∧ x.effortValue = last ∧ x.pressureValue = some last ∧
      x.groundValue = none) ∧
    (x.cls = .fault → (∀ g, x.goodHold ≠ none → x.good = some g → x.demandValue = g.value) ∧
      (x.goodHold = none ∨ x.good = none → x.demandValue = 0)) ∧
    (x.cls = .absent → x.demandValue = 0) ∧
    (x.cls = .fault ∨ x.cls = .absent → x.effortValue = 0 ∧ x.pressureValue = none ∧
      x.groundValue = none) := by
  have backed : x.cls = .fault → (∀ g, x.goodHold ≠ none → x.good = some g → x.demandValue = g.value) ∧
      (x.goodHold = none ∨ x.good = none → x.demandValue = 0) := by
    intro hc
    refine ⟨fun g hh hg => ?_, fun h => ?_⟩
    · obtain ⟨t, ht⟩ := Option.ne_none_iff_exists'.mp hh
      simp [PostedItem.demandValue, hc, ht, hg]
    · rcases h with h | h
      · simp [PostedItem.demandValue, hc, h]
      · cases hg : x.goodHold <;> simp [PostedItem.demandValue, hc, h, hg]
  refine ⟨?_, fun h => ?_, backed, fun h => ?_, ?_⟩
  · rintro (h | h) <;>
      simp [PostedItem.demandValue, PostedItem.effortValue, PostedItem.pressureValue, PostedItem.groundValue,
        PostedItem.lastValue, h]
  · simp [PostedItem.demandValue, PostedItem.effortValue, PostedItem.pressureValue, PostedItem.groundValue,
      PostedItem.lastValue, h]
  · simp [PostedItem.demandValue, h]
  · rintro (h | h) <;> simp [PostedItem.effortValue, PostedItem.pressureValue, PostedItem.groundValue, h]

/-- Settles O20: each class substitutes what Table 1-4 says, and each expiry is the model's own operation where it
is due. -/
theorem agesAndSubstitution : Obligations.AgesAndSubstitution := by
  refine ⟨PostedItem.substituted, fun v => ?_, fun i s hp => ?_⟩
  · obtain ⟨hav, kav⟩ := worstOf_axles v.av.get
    obtain ⟨hae, kae⟩ := worstOf_axles v.ae.get
    exact ⟨clsCode_worstOf_pair _ _, clsCode_worstOf_pair _ _, clsCode_worstOf_pair _ _, hav, kav, hae, kae, rfl⟩
  · have fresh : s.due (.freshExpiry i) = s.runOver (s.posted.get i).fresh := s.passed_eq_runOver _
    have hold : s.due (.holdExpiry i) = s.runOver (s.posted.get i).hold := s.passed_eq_runOver _
    have good : s.due (.goodHoldExpiry i) = s.runOver (s.posted.get i).goodHold := s.passed_eq_runOver _
    refine ⟨fun ho hc => ?_, fun ho => ?_, fun ho => ?_, fun hn => ?_, fun hn => ?_, fun hn => ?_⟩
    · refine ⟨_, next_expire_due _ hp (fresh.trans ho), s.freshExpiry_raised i ?_⟩
      exact (PostedItem.mayStale_iff _).mpr ⟨State.isSome_of_runOver ho, hc⟩
    · exact ⟨_, next_expire_due _ hp (hold.trans ho), s.holdExpiry_taken i⟩
    · exact ⟨_, next_expire_due _ hp (good.trans ho), s.goodHoldExpiry_taken i⟩
    · by_cases ho : s.runOver (s.posted.get i).fresh = true
      · obtain ⟨hv, hc⟩ := hn.resolve_left (fun h => h ho)
        have hs : (s.posted.get i).mayStale = false := by
          rw [← Bool.not_eq_true, PostedItem.mayStale_iff]
          exact fun h => h.2.elim hv hc
        exact (next_expire_due _ hp (fresh.trans ho)).trans (congrArg _ (s.freshExpiry_other i hs))
      · exact next_expire_not_due _ (fresh.trans (Bool.not_eq_true _ ▸ ho))
    · exact next_expire_not_due _ (hold.trans (Bool.not_eq_true _ ▸ hn))
    · exact next_expire_not_due _ (good.trans (Bool.not_eq_true _ ▸ hn))

/-! The Blend Unit's timers (R74, R75) -/

/-- The shortfall timer's expiry while the timer runs (R74). -/
theorem State.shortfallExpiry_running (s : State) (h : s.blend.short.isSome = true) :
    s.shortfallExpiry =
      ((s.setBlend { s.blend with short := none, shortRaised := true }).occur .shortfall 0).count 15 := by
  obtain ⟨x, hx⟩ := Option.isSome_iff_exists.mp h
  simp [State.shortfallExpiry, hx]

/-- A running deviation timer's expiry is due once its accumulated run is DEV_TIME (R75). -/
theorem State.due_airDeviation {s : State} {y : Truck} {since : Stamp} {acc : Nat}
    (h : (s.blend.dev.get y).run = .running since acc) : s.due (.airDeviationTimerExpiry y) =
      decide (s.params.devTime ≤ acc + (s.now - since).toNat) := by
  simp only [State.due, h, DevRun.runs, DevRun.sofar, elapsed, Bool.true_and]

/-- Settles O34: an expiry that is due is an occurrence of its exception and marks its episode. -/
theorem blendTimerExpiries : Obligations.BlendTimerExpiries := by
  intro s hp
  have short : s.due .shortfallTimerExpiry = s.runOver s.blend.short := s.passed_eq_runOver _
  have period : s.due .blendPeriodExpiry = s.runOver s.blend.period := s.passed_eq_runOver _
  refine ⟨fun ho => ?_, fun hn => ?_, fun y since acc hr => ⟨fun hd => ?_, fun hd => ?_⟩, fun y hn => ?_,
    fun hn => ?_⟩
  · refine ⟨_, State.occur_raised _ _ _, (next_expire_due _ hp (short.trans ho)).trans (congrArg _ ?_)⟩
    exact s.shortfallExpiry_running (State.isSome_of_runOver ho)
  · exact next_expire_not_due _ (short.trans (Bool.not_eq_true _ ▸ hn))
  · have due : s.due (.airDeviationTimerExpiry y) = true :=
      (State.due_airDeviation hr).trans (decide_eq_true hd)
    refine ⟨_, State.occur_raised _ _ _, (next_expire_due _ hp due).trans (congrArg _ ?_)⟩
    simp [State.deviationExpiry, hr, State.setDev]
  · have due : s.due (.airDeviationTimerExpiry y) = false :=
      (State.due_airDeviation hr).trans (decide_eq_false (Nat.not_le.mpr hd))
    exact next_expire_not_due _ due
  · have due : s.due (.airDeviationTimerExpiry y) = false := by
      cases hr : (s.blend.dev.get y).run with
      | running since acc => exact absurd hr (hn since acc)
      | stopped | paused => simp [State.due, hr, DevRun.runs]
    exact next_expire_not_due _ due
  · exact next_expire_not_due _ (period.trans (Bool.not_eq_true _ ▸ hn))

/-! Postings (R1 to R5, R12 to R15) -/

/-- A posting request is served by the delivery of its items (R1). -/
theorem exec_posting : ∀ p ∈ postings, ∀ (r : Req) (s : State),
    exec (p.1 r) s = .next (s.serve p.2.1 r (postAnswer p.2.2 r)) := by
  simp only [postings, List.forall_mem_cons, List.not_mem_nil, false_implies, implies_true, and_true]
  exact ⟨fun _ _ => rfl, fun _ _ => rfl, fun _ _ => rfl, fun _ _ => rfl, fun _ _ => rfl, fun _ _ => rfl,
    fun _ _ => rfl⟩

/-- No posting names an item twice. -/
theorem postings_nodup : ∀ p ∈ postings, p.2.2.Nodup := by
  simp [postings]

/-- A taken posting leaves the deliveries and what they lead to, and answers the classes (R1). -/
theorem exec_posting_taken {p : (Req → Instr) × Byte × List Item} (hp : p ∈ postings) {r : Req} {s u : State}
    (h : s.Takes p.2.1 r u) :
    exec (p.1 r) s = .next ((u.post r p.2.2).answered p.2.1 r .ok ((u.post r p.2.2).classWords p.2.2)) := by
  rw [exec_posting p hp]
  refine congrArg _ (State.serve_ok h rfl ?_)
  obtain ⟨c, e, t, d, rs, b, hf⟩ := u.post_frame r p.2.2
  rw [hf]
  rfl

/-- The table after a posting. -/
theorem State.post_posted (u : State) (r : Req) (items : List Item) :
    (u.post r items).posted = u.posted.receive (deliveries u r items) := by
  obtain ⟨c, e, t, d, rs, b, h⟩ := u.post_frame r items
  rw [h]
  rfl

/-- The deliveries name a posting's items, in item order. -/
theorem deliveries_items (u : State) (r : Req) (items : List Item) :
    (deliveries u r items).map (·.item) = items := by
  rw [deliveries_eq, List.map_map]
  simp only [Function.comp_def, deliver_item]
  simp

/-- Each item of a posting is classified by itself (R3 to R5). -/
theorem State.post_get {u : State} {r : Req} {items : List Item} (hn : items.Nodup) {x : Item × Nat}
    (hx : x ∈ items.zipIdx) : (u.post r items).posted.get x.1 =
      (u.posted.get x.1).posted u.now u.params (itemMax u.params x.1) (postedNumber r x.2) (faultMarker r x.2) := by
  have hd : (deliver u x.1 (postedNumber r x.2) (faultMarker r x.2)) ∈ deliveries u r items := by
    rw [deliveries_eq]
    exact List.mem_map.mpr ⟨x, hx, rfl⟩
  rw [u.post_posted r items, ← deliver_entry]
  refine (Posted.receive_get u.posted (deliveries u r items) ?_ x.1).1 _ hd (deliver_item _ _ _ _)
  rwa [deliveries_items]

/-- The items that a posting does not name stay (R1). -/
theorem State.post_get_other {u : State} {r : Req} {items : List Item} (hn : items.Nodup) {i : Item}
    (hi : i ∉ items) : (u.post r items).posted.get i = u.posted.get i := by
  rw [u.post_posted r items]
  refine (Posted.receive_get u.posted (deliveries u r items) ?_ i).2 ?_
  · rwa [deliveries_items]
  · rwa [deliveries_items]

/-- The items of a posting with two properties of their post, one of them of the item alone. -/
theorem postedWhere_filter (r : Req) (items : List Item) (f : Item → Int → Bool → Bool) (p : Item → Bool) :
    (postedWhere r items f).filter p = postedWhere r items fun i n m => f i n m && p i := by
  unfold postedWhere
  rw [List.filter_map, List.filter_filter]
  congr 2
  funext x
  simp [Bool.and_comm]

/-- The saturated deliveries are the saturated posts (R4). -/
theorem deliveries_saturated (u : State) (r : Req) (items : List Item) :
    ((deliveries u r items).filter Delivery.saturated).map (·.item) = u.saturatedBy r items :=
  deliveries_where u r items _ _ (deliver_saturated u)

/-- The deliveries that are occurrences of INPUT_CLAMPED (R4). -/
theorem deliveries_clamped (u : State) (r : Req) (items : List Item) :
    ((deliveries u r items).filter Delivery.clampedNow).map (·.item) = u.clampedBy r items :=
  (deliveries_where u r items _ _ (deliver_clamped u)).trans (postedWhere_filter r items _ _).symm

/-- The deliveries that are occurrences of INPUT_FAULT (R5). -/
theorem deliveries_fault (u : State) (r : Req) (items : List Item) :
    ((deliveries u r items).filter Delivery.faultNow).map (·.item) = u.faultedBy r items :=
  (deliveries_where u r items _ _ (deliver_fault u)).trans (postedWhere_filter r items _ _).symm

/-- A posting counts event 19 for each saturated post (R164). -/
theorem State.post_counters (u : State) (r : Req) (items : List Item) :
    (u.post r items).counters = (u.countMany 19 (u.saturatedBy r items).length).counters := by
  have hl : (u.saturatedBy r items).length = ((deliveries u r items).filter Delivery.saturated).length := by
    rw [← deliveries_saturated, List.length_map]
  have first : ∀ (v : State) (k : ExcKind) (ds : List Delivery), (v.occurFirst k ds).counters = v.counters := by
    intro v k ds
    obtain ⟨e, t, h⟩ := v.occurFirst_frame k ds
    rw [h]
    rfl
  have handed : ∀ (v : State) (old : Posted), (v.handPosted old).counters = v.counters := by
    intro v old
    obtain ⟨d, rs, b, h⟩ := v.handPosted_frame old
    rw [h]
    rfl
  unfold State.post
  rw [hl, handed, first, first]
  exact State.countMany_counters 19 _ _ _ rfl

/-- What a posting leads to, one after another: the occurrence of INPUT_CLAMPED, the one of INPUT_FAULT, and what
the table hands on (R4, R5, R12 to R15). -/
theorem State.post_stages (u : State) (r : Req) (items : List Item) :
    ∃ b c, RaisedFirst ((u.setPosted (u.post r items).posted).setCounters (u.post r items).counters) b .clamped
        (u.clampedBy r items) ∧
      RaisedFirst b c .fault (u.faultedBy r items) ∧ Handed c (u.post r items) u.posted := by
  have counted : (u.setPosted (u.post r items).posted).setCounters (u.post r items).counters =
      (u.setPosted (u.posted.receive (deliveries u r items))).countMany 19
        ((deliveries u r items).filter Delivery.saturated).length := by
    obtain ⟨c, h⟩ := State.countMany_frame 19 ((deliveries u r items).filter Delivery.saturated).length
      (u.setPosted (u.posted.receive (deliveries u r items)))
    have hl : (u.saturatedBy r items).length = ((deliveries u r items).filter Delivery.saturated).length := by
      rw [← deliveries_saturated, List.length_map]
    rw [u.post_posted, u.post_counters, hl,
      State.countMany_counters 19 _ u (u.setPosted (u.posted.receive (deliveries u r items))) rfl, h]
    rfl
  rw [counted]
  have clamped := fun v : State => deliveries_clamped u r items ▸
    v.occurFirst_raised .clamped ((deliveries u r items).filter Delivery.clampedNow)
  have fault := fun v : State => deliveries_fault u r items ▸
    v.occurFirst_raised .fault ((deliveries u r items).filter Delivery.faultNow)
  exact ⟨_, _, clamped _, fault _, State.handPosted_handed _ _⟩

/-- Settles O18: each item's entry is its own delivery. -/
theorem postingsClassify : Obligations.PostingsClassify := by
  intro p hp r s u h
  have hn := postings_nodup p hp
  refine ⟨u.post r p.2.2, exec_posting_taken hp h, fun x hx => State.post_get hn hx,
    fun i hi => State.post_get_other hn hi, u.post_counters r p.2.2, ?_⟩
  obtain ⟨c, e, t, d, rs, b, hf⟩ := u.post_frame r p.2.2
  rw [hf]
  rfl

/-- Settles O19: the stages of a posting, in the order in which the model takes them. -/
theorem postingsHandOn : Obligations.PostingsHandOn := by
  intro p hp r s u h
  exact ⟨u.post r p.2.2, _, exec_posting_taken hp h, u.post_stages r p.2.2⟩

/-! Masks and flags (R16, R17) -/

/-- A kind is in the set of a sum of weights where the sum has its weight. -/
theorem kindSetOf_get (n : Nat) (k : ExcKind) : (kindSetOf n).get k = decide (n / kindWeight k % 2 = 1) := by
  cases k <;> exact Nat.testBit_eq_decide_div_mod_eq

/-- The set of a sum of weights up to 63 has that sum. -/
theorem kindSetCode_kindSetOf {n : Nat} (h : n ≤ 63) : kindSetCode (kindSetOf n) = n := by
  have all : ∀ m : Fin 64, kindSetCode (kindSetOf m) = m := by decide
  exact all ⟨n, by omega⟩

/-- The masks after all six are replaced (R17). -/
theorem State.setMasks_masks (u : State) (named : PerKind Bool) :
    (u.setExc (setMasks u.exc named)).excMasks = named := by
  refine PerKind.ext_get _ _ fun k => ?_
  simp [State.excMasks, setMasks]

/-- Settles O21: the masks and the flags follow the kinds that the selector names. -/
theorem masksAndClears : Obligations.MasksAndClears := by
  refine ⟨fun r s u h => ⟨fun hr => ?_, fun hr => ?_⟩, fun r s u h => ⟨fun hr => ?_, fun hr => ?_⟩,
    fun r s hs hl => ?_⟩
  · have code : (u.setExc (setMasks u.exc (kindSetOf (selectorNo r)))).masksCode = r.selector.toNat := by
      rw [State.masksCode, State.setMasks_masks]
      exact kindSetCode_kindSetOf hr
    have body : setMaskAnswer r u = answerOk (u.setExc (setMasks u.exc (kindSetOf (selectorNo r))))
        { w1 := BitVec.ofNat 16 r.selector.toNat } := by
      refine (if_neg (Nat.not_lt.mpr hr)).trans ?_
      rw [code]
      rfl
    refine ⟨_, congrArg _ (State.serve_ok h body rfl), fun k => ?_⟩
    simp [setMasks, kindSetOf_get, selectorNo]
  · refine congrArg _ (State.serve_refuse h ?_)
    exact if_pos hr
  · have body : clearExcAnswer r u = answerOk (u.setExc (clearKinds u.exc (kindSetOf (selectorNo r))))
        { w1 := BitVec.ofNat 16 u.flagsCode } := if_neg (Nat.not_lt.mpr hr)
    refine ⟨_, congrArg _ (State.serve_ok h body rfl), fun k => ?_⟩
    simp [clearKinds, kindSetOf_get, selectorNo]
  · refine congrArg _ (State.serve_refuse h ?_)
    exact if_pos hr
  · have admitted : admits 65 r.link = false ∧ admits 66 r.link = false := by
      cases hc : r.link
      · decide
      · decide
      · exact absurd hc hl
    exact ⟨congrArg _ (State.serve_kind hs admitted.1), congrArg _ (State.serve_kind hs admitted.2)⟩

end Sys2Proof.Machine
end

section
/-! PROOFS. The loss of a link: what each of its three recipients keeps and brings about, and what they leave
together in whatever order they take it (R178; log 5). -/

namespace Sys2Proof.Machine

/-! Entries -/

/-- `e'` is `e`, or `e` with its condition STAND given and its state derived anew. -/
def Entry.StandOnly (e e' : Entry) : Prop := e' = e ∨ ∃ on, e' = e.withStand on

/-- The entry has taken the loss of link `l`: with the link among its members LINK_LOSS holds and the state is
derived (R47, R49). -/
def Entry.FeelsLoss (e : Entry) (l : LinkId) : Prop :=
  e.members.has l = true → e.linkLoss = true ∧ e.state = e.derive

theorem Entry.SameWritten.refl (e : Entry) : e.SameWritten e := rfl

theorem Entry.SameWritten.members {e e' : Entry} (h : e.SameWritten e') : e'.members = e.members :=
  (congrArg Entry.members h).trans rfl

theorem Entry.SameWritten.trans {e e' e'' : Entry} (h : e.SameWritten e') (g : e'.SameWritten e'') :
    e.SameWritten e'' := by
  unfold Entry.SameWritten at h g ⊢
  rw [h] at g
  exact g

theorem Entry.StandOnly.sameWritten {e e' : Entry} (h : e.StandOnly e') : e.SameWritten e' := by
  obtain rfl | ⟨on, rfl⟩ := h
  · exact .refl _
  · rfl

theorem Entry.StandOnly.feelsLoss {e e' : Entry} (h : e.StandOnly e') {l : LinkId} (hf : e.FeelsLoss l) :
    e'.FeelsLoss l := by
  obtain rfl | ⟨on, rfl⟩ := h
  · exact hf
  · exact fun hm => ⟨(hf hm).1, rfl⟩

/-- An entry after LINK_LOSS's re-examination has the written fields that it had. -/
theorem Entry.withLinkLoss_sameWritten (e : Entry) (s : State) (l : LinkId) : e.SameWritten (e.withLinkLoss s l) := by
  unfold Entry.withLinkLoss
  split <;> rfl

/-- A link that is not UP is a loss among members that include it (R47). -/
theorem State.lossAmong_of_not_up {s : State} {l : LinkId} {members : LinkSet} (hm : members.has l = true)
    (hl : (s.links.get l).state ≠ .up) : s.lossAmong members = true :=
  List.any_eq_true.mpr ⟨l, by cases l <;> decide, by simp [hm, hl]⟩

/-- LINK_LOSS's re-examination, with the link not UP, has every entry take the loss (R47, R49). -/
theorem Entry.withLinkLoss_feels (e : Entry) {s : State} {l : LinkId} (hl : (s.links.get l).state ≠ .up) :
    (e.withLinkLoss s l).FeelsLoss l := by
  unfold Entry.withLinkLoss
  split
  · rename_i hm
    exact fun _ => ⟨State.lossAmong_of_not_up hm hl, rfl⟩
  · rename_i hm
    exact fun h => absurd h hm

/-! What a settled mode and a hand-off leave -/

theorem ModeSettled.electric_standOnly {b t : State} (h : ModeSettled b t) (k : Axle) :
    (b.res.electric.get k).StandOnly (t.res.electric.get k) := by
  by_cases hs : b.standChanges
  · exact .inr ⟨_, h.electric hs k⟩
  · exact .inl (by rw [(h.still hs).1])

theorem ModeSettled.air_standOnly {b t : State} (h : ModeSettled b t) (x : Truck) :
    (b.res.air.get x).StandOnly (t.res.air.get x) := by
  by_cases hs : b.standChanges
  · exact .inr ⟨_, h.air hs x⟩
  · exact .inl (by rw [(h.still hs).1])

/-- A settled mode is the one that the evaluation gives of the state it leaves (R32). -/
theorem ModeSettled.evaluated {b t : State} (h : ModeSettled b t) : t.demand.mode = t.evaluatedMode := by
  have hs : t.speed = b.speed := by
    rw [h.same]
    rfl
  simp only [State.evaluatedMode, hs, h.mode]

/-- The reductions for fallen availabilities are cuts (R79). -/
theorem AvailCut.onlyCut {b m : State} {old : Posted} (h : AvailCut b m old) : OnlyCut b.blend m.blend := by
  have hb : m.blend = { b.blend with
      record := { b.blend.record with revision := m.blend.record.revision, axles := m.blend.record.axles } } :=
    congrArg State.blend h.same
  have hr := congrArg Blend.record hb
  have ht : m.blend.record.trucks = b.blend.record.trucks := (congrArg Alloc.trucks hr).trans rfl
  refine ⟨?_, ?_, ?_, fun k => ?_, fun t => ?_⟩
  · rw [hb]
  · rw [ht]
    exact hr
  · rw [h.revision]
    exact le_max_left _ _
  · rw [h.axles k]
    split
    · rename_i hf
      simp only [State.availFalls, Bool.and_eq_true, decide_eq_true_eq] at hf
      exact ⟨hf.2.le, min_le_left _ _⟩
    · exact ⟨le_refl _, le_refl _⟩
  · rw [ht]
    exact ⟨rfl, le_refl _, le_refl _⟩

/-- What a hand-off of the table leaves of the Demand Unit's sets, the entries, the record and the mode, and what
it does not touch (R12, R19, R33). -/
structure HandedKept (b t : State) : Prop where
  maint : t.demand.maint = b.demand.maint
  penalty : t.demand.penalty = b.demand.penalty
  emergency : t.demand.emergency = b.demand.emergency
  electric : ∀ k, (b.res.electric.get k).StandOnly (t.res.electric.get k)
  air : ∀ x, (b.res.air.get x).StandOnly (t.res.air.get x)
  cuts : OnlyCut b.blend t.blend
  mode : b.demand.mode = b.evaluatedMode → t.demand.mode = t.evaluatedMode
  frame : ∃ d r x, t = ((b.setDemand d).setRes r).setBlend x

theorem Handed.kept {b t : State} {old : Posted} (h : Handed b t old) : HandedKept b t := by
  obtain ⟨m, hm, same, changed⟩ := h
  have hmb : ∃ x, m = b.setBlend x := ⟨_, hm.same⟩
  have cut := hm.onlyCut
  by_cases hf : b.posted.demandFigures = old.demandFigures
  · rw [same hf]
    obtain ⟨x, rfl⟩ := hmb
    exact ⟨rfl, rfl, rfl, fun _ => .inl rfl, fun _ => .inl rfl, cut, fun h => h, ⟨b.demand, b.res, x, rfl⟩⟩
  · have hs := changed hf
    obtain ⟨x, rfl⟩ := hmb
    exact ⟨(congrArg Demand.maint hs.mode).trans rfl, (congrArg Demand.penalty hs.mode).trans rfl,
      (congrArg Demand.emergency hs.mode).trans rfl,
      hs.electric_standOnly, hs.air_standOnly, cut.trans hs.cuts, fun _ => hs.evaluated, ⟨_, _, _, hs.same.trans rfl⟩⟩

/-! The table's loss -/

/-- A change of each item of a list by itself, item by item. -/
theorem Posted.foldl_set_get (g : Item → PostedItem → PostedItem) : ∀ (xs : List Item) (v : Posted) (j : Item),
    xs.Nodup → (xs.foldl (fun w i => w.set i (g i (w.get i))) v).get j =
      if j ∈ xs then g j (v.get j) else v.get j := by
  intro xs
  induction xs with
  | nil => intro v j _; rfl
  | cons i xs ih =>
    intro v j hn
    rw [List.foldl_cons, ih _ _ (List.nodup_cons.mp hn).2, Posted.get_set]
    by_cases hi : j = i
    · subst hi
      simp [(List.nodup_cons.mp hn).1]
    · simp [hi]

theorem mem_allItems (i : Item) : i ∈ allItems := by
  rcases i with _ | _ | ⟨_ | _⟩ | ⟨_ | _ | _ | _ | _ | _⟩ | ⟨_ | _ | _ | _ | _ | _⟩ | ⟨_ | _⟩ | _ <;> decide

theorem allItems_nodup : allItems.Nodup := by decide

/-- The table after the loss of link `l`: the items of the link cleared (R8). -/
theorem Posted.dropOwned_get (v : Posted) (l : LinkId) (i : Item) :
    (v.dropOwned l).get i = if itemOwner i = l then (v.get i).cleared else v.get i := by
  refine (Posted.foldl_set_get (fun _ x => x.cleared) (ownedItems l) v i (allItems_nodup.filter _)).trans ?_
  have hm : i ∈ ownedItems l ↔ itemOwner i = l := by simp [ownedItems, mem_allItems]
  by_cases h : itemOwner i = l
  · rw [if_pos h, if_pos (hm.mpr h)]
  · rw [if_neg h, if_neg fun g => h (hm.mp g)]

/-! The three recipients -/

/-- The state with the parts blanked that the recipients of a loss may change. -/
def State.beyondLoss (s : State) : State :=
  { s with posted := .reset, demand := .reset, res := .reset, blend := .reset, brkFault := false, choice := 0 }

/-- What every recipient of the loss of link `l` keeps. -/
structure LossKept (l : LinkId) (s t : State) : Prop where
  cleared : ∀ i, (t.posted.get i).cleared = (s.posted.get i).cleared
  kept : ∀ i, itemOwner i ≠ l → t.posted.get i = s.posted.get i
  maint : t.demand.maint.put l false = s.demand.maint.put l false
  penalty : t.demand.penalty = s.demand.penalty
  emergency : t.demand.emergency = s.demand.emergency
  electric : ∀ k, (s.res.electric.get k).SameWritten (t.res.electric.get k)
  air : ∀ x, (s.res.air.get x).SameWritten (t.res.air.get x)
  cuts : OnlyCut s.blend t.blend
  brake : l = .m → t.brkFault = s.brkFault
  frame : t.beyondLoss = s.beyondLoss

theorem LossKept.refl (l : LinkId) (s : State) : LossKept l s s :=
  ⟨fun _ => rfl, fun _ _ => rfl, rfl, rfl, rfl, fun _ => .refl _, fun _ => .refl _, .refl _, fun _ => rfl, rfl⟩

theorem LossKept.trans {l : LinkId} {s t u : State} (h : LossKept l s t) (g : LossKept l t u) : LossKept l s u where
  cleared i := (g.cleared i).trans (h.cleared i)
  kept i hi := (g.kept i hi).trans (h.kept i hi)
  maint := g.maint.trans h.maint
  penalty := g.penalty.trans h.penalty
  emergency := g.emergency.trans h.emergency
  electric k := (h.electric k).trans (g.electric k)
  air x := (h.air x).trans (g.air x)
  cuts := h.cuts.trans g.cuts
  brake hl := (g.brake hl).trans (h.brake hl)
  frame := g.frame.trans h.frame

theorem LossKept.links {l : LinkId} {s t : State} (h : LossKept l s t) : t.links = s.links :=
  (congrArg State.links h.frame :)

/-- A choice of order keeps all of it. -/
theorem LossKept.setChoice {l : LinkId} {s t : State} (h : LossKept l s t) (n : Nat) :
    LossKept l s (t.setChoice n) :=
  ⟨h.cleared, h.kept, h.maint, h.penalty, h.emergency, h.electric, h.air, h.cuts, h.brake, h.frame⟩

/-- The Posted Value Table takes the loss (R8, R12). -/
theorem State.postedLinkLost_items (l : LinkId) (s : State) : ItemsLost l s (s.postedLinkLost l) :=
  ⟨s.posted.dropOwned l, s.posted.dropOwned_get l, State.handPosted_handed _ _⟩

/-- The Demand Unit takes the loss (R31, R36). -/
theorem State.demandLinkLost_request (l : LinkId) (s : State) : RequestLost l s (s.demandLinkLost l) := by
  refine ⟨_, State.evaluateMode_settled _, ?_⟩
  cases l <;> rfl

theorem State.postedLinkLost_posted (l : LinkId) (s : State) : (s.postedLinkLost l).posted = s.posted.dropOwned l :=
  State.handPosted_posted _ _

/-- What the table's hand-off at a loss keeps. -/
theorem State.postedLinkLost_handedKept (l : LinkId) (s : State) :
    HandedKept (s.setPosted (s.posted.dropOwned l)) (s.postedLinkLost l) :=
  (State.handPosted_handed _ _).kept

theorem State.postedLinkLost_kept (l : LinkId) (s : State) : LossKept l s (s.postedLinkLost l) := by
  have h := s.postedLinkLost_handedKept l
  refine ⟨fun i => ?_, fun i hi => ?_, congrArg (·.put l false) h.maint, h.penalty, h.emergency,
    fun k => (h.electric k).sameWritten, fun x => (h.air x).sameWritten, h.cuts, fun _ => ?_, ?_⟩
  · rw [s.postedLinkLost_posted, Posted.dropOwned_get]
    split <;> rfl
  · rw [s.postedLinkLost_posted, Posted.dropOwned_get, if_neg hi]
  all_goals
    obtain ⟨d, r, b, e⟩ := h.frame
    rw [e]
    rfl

theorem State.demandLinkLost_kept (l : LinkId) (s : State) : LossKept l s (s.demandLinkLost l) := by
  have h := (s.setMaint (s.demand.maint.put l false)).evaluateMode_settled
  have twice : (s.demand.maint.put l false).put l false = s.demand.maint.put l false := by cases l <;> rfl
  have kept : LossKept l s (s.setMaint (s.demand.maint.put l false)).evaluateMode := by
    refine ⟨fun i => ?_, fun i hi => ?_, ?_, ?_, ?_, fun k => (h.electric_standOnly k).sameWritten,
      fun x => (h.air_standOnly x).sameWritten, h.cuts, fun _ => ?_, ?_⟩
    · rw [h.same]
      rfl
    · rw [h.same]
      rfl
    · rw [h.mode]
      exact twice
    · exact (congrArg Demand.penalty h.mode).trans rfl
    · exact (congrArg Demand.emergency h.mode).trans rfl
    all_goals
      obtain ⟨d, r, b, e⟩ := (s.setMaint (s.demand.maint.put l false)).evaluateMode_frame
      rw [e]
      rfl
  have examined : ∀ u : State, l ≠ .m → LossKept l u u.examineBrake := fun u hl =>
    ⟨fun _ => rfl, fun _ _ => rfl, rfl, rfl, rfl, fun _ => .refl _, fun _ => .refl _, .refl _,
      fun e => absurd e hl, rfl⟩
  cases l
  · exact kept.trans (examined _ (by decide))
  · exact kept.trans (examined _ (by decide))
  · exact kept

theorem State.refreshLinkLoss_kept (l : LinkId) (s : State) : LossKept l s (s.refreshLinkLoss l) := by
  obtain ⟨he, ha⟩ := s.refreshLinkLoss_entries l
  have cuts := s.refreshLinkLoss_onlyCut l
  obtain ⟨r, b, e⟩ := s.refreshLinkLoss_frame l
  refine ⟨?_, ?_, ?_, ?_, ?_, fun k => ?_, fun x => ?_, cuts, ?_, ?_⟩
  case refine_6 =>
    rw [he k]
    exact Entry.withLinkLoss_sameWritten _ _ _
  case refine_7 =>
    rw [ha x]
    exact Entry.withLinkLoss_sameWritten _ _ _
  all_goals rw [e]
  · exact fun _ => rfl
  · exact fun _ _ => rfl
  · rfl
  · rfl
  · rfl
  · exact fun _ => rfl
  · rfl

/-- The recipients of the loss of link `l`. -/
def lossRecipients (l : LinkId) : List (State → State) :=
  [(·.postedLinkLost l), (·.demandLinkLost l), (·.refreshLinkLoss l)]

/-- What holds for the three recipients holds for each of the list. -/
theorem forall_lossRecipients {l : LinkId} {p : (State → State) → Prop} (hp : p (·.postedLinkLost l))
    (hd : p (·.demandLinkLost l)) (hr : p (·.refreshLinkLoss l)) : ∀ f ∈ lossRecipients l, p f := by
  simp only [lossRecipients, List.forall_mem_cons, List.not_mem_nil, false_implies, implies_true, and_true]
  exact ⟨hp, hd, hr⟩

theorem lossRecipients_kept (l : LinkId) : ∀ f ∈ lossRecipients l, ∀ s, LossKept l s (f s) :=
  forall_lossRecipients (State.postedLinkLost_kept l) (State.demandLinkLost_kept l) (State.refreshLinkLoss_kept l)

/-- The recipients keep all of it in whatever order they come. -/
theorem inAnyOrder_lossKept (l : LinkId) (s : State) : LossKept l s (inAnyOrder (lossRecipients l) s) :=
  inAnyOrder_keeps (LossKept l s) (fun _ n h => h.setChoice n) _
    (fun f hf u hu => hu.trans (lossRecipients_kept l f hf u)) s (.refl l s)

/-- What one recipient establishes and the others keep, holds once all have taken the loss. -/
theorem inAnyOrder_loss_reaches (l : LinkId) (s : State) (Q : State → Prop)
    (hc : ∀ u n, Q u → Q (u.setChoice n)) (keep : ∀ f ∈ lossRecipients l, ∀ u, LossKept l s u → Q u → Q (f u))
    (f : State → State) (hf : f ∈ lossRecipients l) (one : ∀ u, LossKept l s u → Q (f u)) :
    Q (inAnyOrder (lossRecipients l) s) :=
  inAnyOrder_reaches (LossKept l s) Q (fun _ n h => h.setChoice n) (fun u n _ h => hc u n h) _
    (fun g hg u hu => hu.trans (lossRecipients_kept l g hg u)) keep f hf one s (.refl l s)

/-- The items of the lost link are cleared (R8). -/
theorem inAnyOrder_loss_owned (l : LinkId) (s : State) (i : Item) (hi : itemOwner i = l) :
    (inAnyOrder (lossRecipients l) s).posted.get i = (s.posted.get i).cleared := by
  have again : ∀ u, LossKept l s u → ∀ v, LossKept l u v → v.posted.get i = (v.posted.get i).cleared →
      v.posted.get i = (s.posted.get i).cleared := fun u hu v hv e => e.trans ((hu.trans hv).cleared i)
  have dropped : ∀ u : State, (u.postedLinkLost l).posted.get i = (u.posted.get i).cleared := by
    intro u
    rw [State.postedLinkLost_posted, Posted.dropOwned_get, if_pos hi]
  refine inAnyOrder_loss_reaches l s (fun u => u.posted.get i = (s.posted.get i).cleared) (fun _ _ h => h)
    ?_ (·.postedLinkLost l) (by simp [lossRecipients]) (fun u hu => (dropped u).trans (hu.cleared i))
  refine forall_lossRecipients (fun u hu _ => (dropped u).trans (hu.cleared i)) (fun u _ h => ?_) (fun u _ h => ?_)
  · obtain ⟨d, r, b, x, e⟩ := u.demandLinkLost_frame l
    beta_reduce
    rw [e]
    exact h
  · obtain ⟨r, b, e⟩ := u.refreshLinkLoss_frame l
    beta_reduce
    rw [e]
    exact h

/-- The maintenance request set after the Demand Unit has taken the loss (R31). -/
theorem State.demandLinkLost_maint (u : State) (l : LinkId) :
    (u.demandLinkLost l).demand.maint = u.demand.maint.put l false := by
  have h := congrArg Demand.maint (u.setMaint (u.demand.maint.put l false)).evaluateMode_settled.mode
  cases l <;> exact h

/-- The lost link leaves the maintenance request set (R31). -/
theorem inAnyOrder_loss_asked (l : LinkId) (s : State) :
    (inAnyOrder (lossRecipients l) s).demand.maint = s.demand.maint.put l false := by
  refine inAnyOrder_loss_reaches l s (fun u => u.demand.maint = s.demand.maint.put l false) (fun _ _ h => h)
    ?_ (·.demandLinkLost l) (by simp [lossRecipients]) (fun u hu => (u.demandLinkLost_maint l).trans hu.maint)
  refine forall_lossRecipients (fun u _ h => ?_) (fun u hu _ => (u.demandLinkLost_maint l).trans hu.maint)
    (fun u _ h => ?_)
  · exact (u.postedLinkLost_handedKept l).maint.trans h
  · obtain ⟨r, b, e⟩ := u.refreshLinkLoss_frame l
    beta_reduce
    rw [e]
    exact h

/-- The mode after the Demand Unit has taken the loss is evaluated (R31, R32). -/
theorem State.demandLinkLost_evaluated (u : State) (l : LinkId) :
    (u.demandLinkLost l).demand.mode = (u.demandLinkLost l).evaluatedMode := by
  have h := (u.setMaint (u.demand.maint.put l false)).evaluateMode_settled.evaluated
  cases l <;> exact h

/-- The mode at the end is the one that the evaluation gives (R31, R32). -/
theorem inAnyOrder_loss_mode (l : LinkId) (s : State) :
    (inAnyOrder (lossRecipients l) s).demand.mode = (inAnyOrder (lossRecipients l) s).evaluatedMode := by
  refine inAnyOrder_loss_reaches l s (fun u => u.demand.mode = u.evaluatedMode) (fun _ _ h => h)
    ?_ (·.demandLinkLost l) (by simp [lossRecipients]) (fun u _ => u.demandLinkLost_evaluated l)
  refine forall_lossRecipients (fun u _ h => ?_) (fun u _ _ => u.demandLinkLost_evaluated l) (fun u _ h => ?_)
  · exact (u.postedLinkLost_handedKept l).mode h
  · obtain ⟨r, b, e⟩ := u.refreshLinkLoss_frame l
    beta_reduce
    rw [e]
    exact h

/-- Every entry with the lost link among its members has taken the loss (R47, R49). -/
theorem inAnyOrder_loss_felt (l : LinkId) (s : State) (hl : (s.links.get l).state ≠ .up) :
    (∀ k, ((inAnyOrder (lossRecipients l) s).res.electric.get k).FeelsLoss l) ∧
      ∀ x, ((inAnyOrder (lossRecipients l) s).res.air.get x).FeelsLoss l := by
  have felt : ∀ u, LossKept l s u → (∀ k, ((u.refreshLinkLoss l).res.electric.get k).FeelsLoss l) ∧
      ∀ x, ((u.refreshLinkLoss l).res.air.get x).FeelsLoss l := by
    intro u hu
    have hn : (u.links.get l).state ≠ .up := by rwa [hu.links]
    obtain ⟨he, ha⟩ := u.refreshLinkLoss_entries l
    exact ⟨fun k => he k ▸ Entry.withLinkLoss_feels _ hn, fun x => ha x ▸ Entry.withLinkLoss_feels _ hn⟩
  refine inAnyOrder_loss_reaches l s (fun u => (∀ k, (u.res.electric.get k).FeelsLoss l) ∧
    ∀ x, (u.res.air.get x).FeelsLoss l) (fun _ _ h => h) ?_ (·.refreshLinkLoss l) (by simp [lossRecipients]) felt
  refine forall_lossRecipients (fun u _ h => ?_) (fun u _ h => ?_) (fun u hu _ => felt u hu)
  · have hk := u.postedLinkLost_handedKept l
    exact ⟨fun k => (hk.electric k).feelsLoss (h.1 k), fun x => (hk.air x).feelsLoss (h.2 x)⟩
  · have hs := (u.setMaint (u.demand.maint.put l false)).evaluateMode_settled
    have settled : (∀ k, ((u.setMaint (u.demand.maint.put l false)).evaluateMode.res.electric.get k).FeelsLoss l) ∧
        ∀ x, ((u.setMaint (u.demand.maint.put l false)).evaluateMode.res.air.get x).FeelsLoss l :=
      ⟨fun k => (hs.electric_standOnly k).feelsLoss (h.1 k), fun x => (hs.air_standOnly x).feelsLoss (h.2 x)⟩
    cases l <;> exact settled

/-- With the P-link or the A-link lost BRK_FAULT is asserted (R36). -/
theorem inAnyOrder_loss_brake (l : LinkId) (s : State) (hl : (s.links.get l).state ≠ .up) :
    l ≠ .m → (inAnyOrder (lossRecipients l) s).brkFault = true := by
  have faulty : ∀ u : State, u.links = s.links → l ≠ .m → u.brakeFaulty = true := by
    intro u hu hm
    cases l
    · simp [State.brakeFaulty, hu, hl]
    · simp [State.brakeFaulty, hu, hl]
    · exact absurd rfl hm
  have examined : ∀ u, LossKept l s u → l ≠ .m → (u.demandLinkLost l).brkFault = true := by
    intro u hu hm
    have hv : (u.setMaint (u.demand.maint.put l false)).evaluateMode.links = s.links := by
      rw [(u.setMaint (u.demand.maint.put l false)).evaluateMode_settled.links]
      exact hu.links
    have h := faulty _ hv hm
    cases l
    · exact h
    · exact h
    · exact absurd rfl hm
  intro hm
  refine inAnyOrder_loss_reaches l s (fun u => u.brkFault = true) (fun _ _ h => h)
    ?_ (·.demandLinkLost l) (by simp [lossRecipients]) (fun u hu => examined u hu hm)
  refine forall_lossRecipients (fun u _ h => ?_) (fun u hu _ => examined u hu hm) (fun u _ h => ?_)
  · obtain ⟨p, d, r, b, e⟩ := u.postedLinkLost_frame l
    beta_reduce
    rw [e]
    exact h
  · obtain ⟨r, b, e⟩ := u.refreshLinkLoss_frame l
    beta_reduce
    rw [e]
    exact h

/-! The whole loss -/

/-- Three relations, one for each recipient, hold in some order (R178; log 5). -/
theorem inAnyOrder_loss_chained (l : LinkId) (s : State) :
    InSomeOrder [ItemsLost l, RequestLost l, LossFelt l] s (inAnyOrder (lossRecipients l) s) :=
  inAnyOrder_chained _ _ (.cons (State.postedLinkLost_items l) (.cons (State.demandLinkLost_request l)
    (.cons (fun a => a.refreshLinkLoss_felt l) .nil))) s

/-- A link that goes DOWN leaves all that R178 says. -/
theorem State.linkDown_lost (s : State) (l : LinkId) (detail : Nat) :
    LinkLost s (s.linkDown l detail) l (BitVec.ofNat 8 detail) := by
  generalize hb : s.setPort l (s.port l).drop = b
  generalize hm : inAnyOrder (lossRecipients l) b = m
  have ht : s.linkDown l detail = (m.send (linkLossCause l) detail).count 11 := by
    rw [← hm, ← hb]
    rfl
  have down : (b.links.get l).state ≠ .up := by
    rw [← hb]
    simp [State.setPort, LinkPort.drop]
  have kept := inAnyOrder_lossKept l b
  have taken := inAnyOrder_loss_chained l b
  have owned := inAnyOrder_loss_owned l b
  have asked := inAnyOrder_loss_asked l b
  have mode := inAnyOrder_loss_mode l b
  have felt := inAnyOrder_loss_felt l b down
  have brake := inAnyOrder_loss_brake l b down
  rw [hm] at kept taken owned asked mode felt brake
  have port : (s.linkDown l detail).port l = (s.port l).drop := by
    rw [ht]
    change m.links.get l = _
    rw [kept.links, ← hb]
    simp [State.setPort]
  refine ⟨⟨m, ?_, ?_⟩, port, fun l' hl => ?_, ?_, ?_, ?_, ?_, ?_, ?_, fun k => ⟨?_, ?_⟩, fun z => ⟨?_, ?_⟩, ?_, ?_,
    ?_, ?_, ?_⟩
  · rw [port, hb]
    exact taken
  · rw [ht]
    rfl
  · rw [ht]
    change m.links.get l' = _
    rw [kept.links, ← hb]
    simp [State.setPort, State.port, hl]
  all_goals rw [ht]
  · exact fun i hi => (owned i hi).trans (by rw [← hb]; rfl)
  · exact fun i hi => (kept.kept i hi).trans (by rw [← hb]; rfl)
  · exact asked.trans (by rw [← hb]; rfl)
  · exact mode
  · exact kept.penalty.trans (by rw [← hb]; rfl)
  · exact kept.emergency.trans (by rw [← hb]; rfl)
  · have := kept.electric k
    rw [← hb] at this
    exact this
  · have := (kept.electric k).members
    rw [← hb] at this
    exact fun hk => felt.1 k (this ▸ hk)
  · have := kept.air z
    rw [← hb] at this
    exact this
  · have := (kept.air z).members
    rw [← hb] at this
    exact fun hz => felt.2 z (this ▸ hz)
  · have := kept.cuts
    rw [← hb] at this
    exact this
  · cases l
    · exact brake (by decide)
    · exact brake (by decide)
    · exact (kept.brake rfl).trans (by rw [← hb]; rfl)
  all_goals
    have frame := kept.frame
    rw [← hb] at frame
  · exact (congrArg (·.sent ++ [⟨linkLossCause l, BitVec.ofNat 8 detail⟩]) frame :)
  · have hc : (m.send (linkLossCause l) detail).counters = s.counters := (congrArg State.counters frame :)
    simp only [State.count, State.setCounters, hc]
  · exact ⟨(congrArg State.exc frame :), (congrArg State.tach frame :), (congrArg State.speed frame :),
      (congrArg State.slide frame :), (congrArg State.inc frame :), (congrArg State.mem frame :),
      (congrArg State.diag frame :), (congrArg State.params frame :), (congrArg State.dump frame :),
      (congrArg State.clock frame :), (congrArg State.phase frame :), (congrArg State.memLost frame :),
      (congrArg State.pending frame :)⟩

/-- Settles O17: a due expiry of the link timeout timer makes the link DOWN. -/
theorem linkTimeoutTakesDown : Obligations.LinkTimeoutTakesDown := by
  intro l s hp
  have due : s.due (.linkTimeoutExpiry l) = s.runOver (s.port l).timeout := s.passed_eq_runOver _
  refine ⟨fun ho => ?_, fun hn => ?_⟩
  · exact ⟨_, next_expire_due _ hp (due.trans ho), s.linkDown_lost l 1⟩
  · exact next_expire_not_due _ (due.trans (Bool.not_eq_true _ ▸ hn))

/-- A failing frame that is taken, after the count of event 18 (R172, R176). -/
theorem exec_frameCheckFailure {l : LinkId} {s : State} (h : s.Serving l) :
    exec (.frameCheckFailure l) s = .next (((s.setPort l (s.port l).ended).count 18).linkFail l) := by
  have taken : s.ifInService (·.frameFailure l) = ((s.setPort l (s.port l).ended).count 18).linkFail l := by
    simp [State.ifInService, State.inService, h.1, State.frameFailure, State.ignoring, h.2]
  exact congrArg _ taken

/-- Of two replacements of a Link Interface about a count the second stands. -/
theorem State.count_setPort (s : State) (l : LinkId) (x y : LinkPort) (n : Nat) :
    ((s.setPort l x).count n).setPort l y = (s.setPort l y).count n := by
  have twice : ((s.setPort l x).count n).links.set l y = s.links.set l y := PerLink.set_set _ _ _ _
  unfold State.setPort at twice ⊢
  rw [twice]
  rfl

/-- A failing frame on a DOWN link changes nothing further (R176). -/
theorem State.linkFail_down {s : State} {l : LinkId} (h : (s.port l).state = .down) : s.linkFail l = s := by
  simp [State.linkFail, h]

/-- The first two failing frames in succession are counted on the link (R176). -/
theorem State.linkFail_few {s : State} {l : LinkId} (h : (s.port l).state ≠ .down) (hf : (s.port l).fail < 2) :
    s.linkFail l = s.setPort l
      { s.port l with fail := (s.port l).fail + 1, join := 0, response := bareResponse .checkFailed } := by
  unfold State.linkFail
  cases hs : (s.port l).state
  · exact absurd hs h
  all_goals
    dsimp only
    rw [hs, if_pos hf]

/-- The third failing frame in succession takes the link DOWN (R176). -/
theorem State.linkFail_third {s : State} {l : LinkId} (h : (s.port l).state ≠ .down) (hf : 2 ≤ (s.port l).fail) :
    s.linkFail l = s.linkDown l 2 := by
  unfold State.linkFail
  cases hs : (s.port l).state
  · exact absurd hs h
  all_goals
    dsimp only
    rw [hs]
    exact if_neg (Nat.not_lt.mpr hf)

/-- Settles O16: the three outcomes of a failing frame, by the link's state and its failures in succession. -/
theorem checkFailureCounts : Obligations.CheckFailureCounts := by
  intro l s h
  have port : ((s.setPort l (s.port l).ended).count 18).port l = (s.port l).ended := by
    simp [State.port, State.setPort, State.count]
  rw [exec_frameCheckFailure h]
  refine ⟨fun hd => ?_, fun hd hf => ?_, fun hd hf => ?_⟩
  · rw [State.linkFail_down (by rwa [port])]
    rfl
  · rw [State.linkFail_few (by rwa [port]) (by rwa [port]), port]
    exact congrArg _ (State.count_setPort s l _ _ 18)
  · rw [State.linkFail_third (by rwa [port]) (by rwa [port])]
    exact ⟨_, rfl, State.linkDown_lost _ l 2⟩

end Sys2Proof.Machine
end

section
/-! PROOFS. Expiries in an order left open: a bank of numbered entries that hand-offs rewrite one by one, with an
exception occurrence for some of them (R9, R82, R103; log 5). -/

namespace Sys2Proof.Machine

/-! Chains -/

/-- A choice of order made before a chain is part of the chain. -/
theorem Chained.of_setChoice {rs : List (State → State → Prop)} {s t : State} {n : Nat}
    (h : Chained rs (s.setChoice n) t) : Chained rs s t := by
  cases rs with
  | nil =>
    obtain ⟨m, rfl⟩ := h
    exact ⟨m, rfl⟩
  | cons r rs =>
    obtain ⟨m, v, hr, hv⟩ := h
    exact ⟨m, v, hr, hv⟩

/-- What each relation of a chain keeps, and a choice of order leaves alone, the chain keeps. -/
theorem Chained.keeps (P : State → Prop) (hc : ∀ s n, P s → P (s.setChoice n)) :
    ∀ {rs : List (State → State → Prop)} {s t : State}, (∀ r ∈ rs, ∀ a m, r a m → P a → P m) →
      Chained rs s t → P s → P t := by
  intro rs
  induction rs with
  | nil =>
    rintro s t _ ⟨n, rfl⟩ hs
    exact hc s n hs
  | cons r rs ih =>
    rintro s t hr ⟨n, m, hm, ht⟩ hs
    exact ih (fun q hq => hr q (by simp [hq])) ht (hr r (by simp) _ _ hm (hc s n hs))

/-- A relation for each hand-off of a mapped list. -/
theorem forall₂_map_map {α β γ : Type} {R : β → γ → Prop} {f : α → β} {g : α → γ} (h : ∀ x, R (f x) (g x))
    (xs : List α) : List.Forall₂ R (xs.map f) (xs.map g) := by
  rw [List.forall₂_map_left_iff, List.forall₂_map_right_iff, List.forall₂_same]
  exact fun x _ => h x

/-- The hand-offs of the items of a list, in an order left open, are made one after another in some order of the
items. -/
theorem inAnyOrder_map {α : Type} (f : α → State → State) (xs : List α) (s : State) :
    ∃ ys : List α, ys.Perm xs ∧
      Chained (ys.map fun x a m => m = f x a) s (inAnyOrder (xs.map f) s) := by
  obtain ⟨qs, hp, hc⟩ := inAnyOrder_chained (xs.map f) (xs.map fun x a m => m = f x a)
    (forall₂_map_map (fun _ _ => rfl) xs) s
  obtain ⟨ys, rfl, hy⟩ : Relation.Comp (· = List.map (fun x a m => m = f x a) ·) List.Perm qs xs := by
    rw [List.eq_map_comp_perm]
    exact hp
  exact ⟨ys, hy, hc⟩

/-! Banks -/

/-- A part of the state that holds one entry for each index: `read` and `write` an entry, and `paste s t`, which
is `s` with the whole bank of `t`. -/
structure Bank (α β : Type) [DecidableEq α] where
  read : State → α → β
  write : State → α → β → State
  paste : State → State → State
  read_write : ∀ s i j x, read (write s i x) j = if j = i then x else read s j
  write_read : ∀ s i, write s i (read s i) = s
  read_occur : ∀ s k d, read (s.occur k d) = read s
  read_choice : ∀ s n, read (s.setChoice n) = read s
  paste_write : ∀ s i x t, paste (write s i x) t = paste s t
  paste_occur : ∀ s k d t, paste (s.occur k d) t = (paste s t).occur k d
  paste_choice : ∀ s n t, paste (s.setChoice n) t = (paste s t).setChoice n
  paste_self : ∀ s n, paste s (s.setChoice n) = s

/-- The hand-off `f` of an entry rewrites it by `g`, and where `fires` holds of it is an occurrence of kind `k`. -/
def Bank.Expires {α β : Type} [DecidableEq α] (B : Bank α β) (f : α → State → State) (g : β → β)
    (fires : β → Bool) (k : ExcKind) (code : α → Nat) : Prop :=
  ∀ i s, f i s = if fires (B.read s i) then (B.write s i (g (B.read s i))).occur k (code i)
    else B.write s i (g (B.read s i))

/-- An entry after one expiry. -/
theorem Bank.Expires.read {α β : Type} [DecidableEq α] {B : Bank α β} {f : α → State → State} {g : β → β}
    {fires : β → Bool} {k : ExcKind} {code : α → Nat} (h : B.Expires f g fires k code) (i j : α) (s : State) :
    B.read (f i s) j = if j = i then g (B.read s i) else B.read s j := by
  rw [h i s]
  split
  · rw [B.read_occur, B.read_write]
  · rw [B.read_write]

/-- Expiries of distinct entries one after another: every entry is rewritten once, and on the state with the bank
as it ends stand the occurrences of those that fire, in that order. -/
theorem Bank.Expires.chained {α β : Type} [DecidableEq α] {B : Bank α β} {f : α → State → State} {g : β → β}
    {fires : β → Bool} {k : ExcKind} {code : α → Nat} (h : B.Expires f g fires k code) {t : State} :
    ∀ {ys : List α} {s : State}, ys.Nodup → Chained (ys.map fun x a m => m = f x a) s t →
      (∀ j, B.read t j = if j ∈ ys then g (B.read s j) else B.read s j) ∧
      Chained ((ys.filter fun i => fires (B.read s i)).map fun i a m => Raised a m k (code i)) (B.paste s t) t := by
  intro ys
  induction ys with
  | nil =>
    rintro s _ ⟨n, rfl⟩
    refine ⟨fun j => ?_, n, ?_⟩
    · rw [B.read_choice]
      rfl
    · rw [B.paste_self]
  | cons i ys ih =>
    rintro s hn ⟨n, m, rfl, hm⟩
    obtain ⟨hi, hn⟩ := List.nodup_cons.mp hn
    obtain ⟨hread, hchain⟩ := ih hn hm
    have hafter : ∀ j, B.read (f i (s.setChoice n)) j = if j = i then g (B.read s i) else B.read s j := by
      intro j
      rw [h.read, B.read_choice]
    refine ⟨fun j => ?_, ?_⟩
    · rw [hread j, hafter j]
      by_cases hj : j = i
      · subst hj
        simp [hi]
      · simp [hj]
    · have hsame : (ys.filter fun j => fires (B.read (f i (s.setChoice n)) j)) =
          ys.filter fun j => fires (B.read s j) := by
        refine List.filter_congr fun j hj => ?_
        rw [hafter j, if_neg fun e : j = i => hi (e ▸ hj)]
      rw [hsame] at hchain
      rw [h i (s.setChoice n), B.read_choice] at hchain
      by_cases hf : fires (B.read s i) = true
      · rw [if_pos hf, B.paste_occur, B.paste_write, B.paste_choice] at hchain
        rw [List.filter_cons_of_pos (p := fun j => fires (B.read s j)) hf]
        exact ⟨n, _, State.occur_raised _ _ _, hchain⟩
      · rw [if_neg hf, B.paste_write, B.paste_choice] at hchain
        rw [List.filter_cons_of_neg (p := fun j => fires (B.read s j)) hf]
        exact hchain.of_setChoice

/-- Expiries of the entries of a list without repeats, in an order left open. -/
theorem Bank.Expires.openOrder {α β : Type} [DecidableEq α] {B : Bank α β} {f : α → State → State} {g : β → β}
    {fires : β → Bool} {k : ExcKind} {code : α → Nat} (h : B.Expires f g fires k code) {xs : List α}
    (hn : xs.Nodup) (s : State) :
    (∀ j, B.read (inAnyOrder (xs.map f) s) j = if j ∈ xs then g (B.read s j) else B.read s j) ∧
    ∃ js : List α, (∀ j, j ∈ js ↔ j ∈ xs ∧ fires (B.read s j) = true) ∧ js.Nodup ∧
      Chained (js.map fun i a m => Raised a m k (code i)) (B.paste s (inAnyOrder (xs.map f) s))
        (inAnyOrder (xs.map f) s) := by
  obtain ⟨ys, hp, hc⟩ := inAnyOrder_map f xs s
  obtain ⟨hread, hchain⟩ := h.chained (hp.nodup_iff.mpr hn) hc
  refine ⟨fun j => ?_, _, fun j => ?_, (hp.nodup_iff.mpr hn).filter _, hchain⟩
  · rw [hread j]
    simp only [hp.mem_iff]
  · rw [List.mem_filter, hp.mem_iff]

/-- Entries rewritten one after another, before anything else happens. -/
def Bank.rewriteAll {α β : Type} [DecidableEq α] (B : Bank α β) (p : β → β) (xs : List α) (s : State) : State :=
  forEach xs (fun i u => B.write u i (p (B.read u i))) s

theorem Bank.rewriteAll_read {α β : Type} [DecidableEq α] (B : Bank α β) (p : β → β) (j : α) :
    ∀ {xs : List α} (s : State), xs.Nodup →
      B.read (B.rewriteAll p xs s) j = if j ∈ xs then p (B.read s j) else B.read s j := by
  intro xs
  induction xs with
  | nil => exact fun _ _ => rfl
  | cons i xs ih =>
    intro s hn
    obtain ⟨hi, hn⟩ := List.nodup_cons.mp hn
    refine (ih (B.write s i (p (B.read s i))) hn).trans ?_
    rw [B.read_write]
    by_cases hj : j = i
    · subst hj
      simp [hi]
    · simp [hj]

theorem Bank.paste_rewriteAll {α β : Type} [DecidableEq α] (B : Bank α β) (p : β → β) (t : State) :
    ∀ (xs : List α) (s : State), B.paste (B.rewriteAll p xs s) t = B.paste s t := by
  intro xs
  induction xs with
  | nil => exact fun _ => rfl
  | cons i xs ih => exact fun s => (ih _).trans (B.paste_write _ _ _ _)

/-- Every entry rewritten by `p`, then the expiries of those past their run, in an order left open. -/
theorem Bank.Expires.afterRewrite {α β : Type} [DecidableEq α] {B : Bank α β} {f : α → State → State} {g : β → β}
    {fires : β → Bool} {k : ExcKind} {code : α → Nat} (h : B.Expires f g fires k code) {xs : List α}
    (hn : xs.Nodup) (hx : ∀ i, i ∈ xs) (p : β → β) (past : β → Bool) {s t : State}
    (ht : t = inAnyOrder ((xs.filter fun i => past (B.read (B.rewriteAll p xs s) i)).map f) (B.rewriteAll p xs s)) :
    (∀ j, B.read t j = if past (p (B.read s j)) then g (p (B.read s j)) else p (B.read s j)) ∧
    ∃ js : List α, (∀ j, j ∈ js ↔ past (p (B.read s j)) = true ∧ fires (p (B.read s j)) = true) ∧ js.Nodup ∧
      Chained (js.map fun i a m => Raised a m k (code i)) (B.paste s t) t := by
  have after : ∀ j, B.read (B.rewriteAll p xs s) j = p (B.read s j) :=
    fun j => (B.rewriteAll_read p j s hn).trans (if_pos (hx j))
  simp only [after] at ht
  obtain ⟨read, js, mem, nodup, chain⟩ := h.openOrder (hn.filter fun i => past (p (B.read s i)))
    (B.rewriteAll p xs s)
  rw [← ht] at read chain
  rw [B.paste_rewriteAll] at chain
  simp only [after, List.mem_filter, hx, true_and] at read mem
  exact ⟨read, js, mem, nodup, chain⟩

/-- An occurrence leaves every part of the state but the flags and the triggers on their way. -/
theorem State.occur_reads {γ : Type} (p : State → γ) (hp : ∀ s e x, p ((s.setExc e).setSent x) = p s) (s : State)
    (k : ExcKind) (d : Nat) : p (s.occur k d) = p s := by
  obtain ⟨e, x, h⟩ := s.occur_frame k d
  rw [h, hp]

theorem Posted.set_get (v : Posted) (i : Item) : v.set i (v.get i) = v := by
  cases i <;> simp [Posted.set, Posted.get]

/-- The items of the Posted Value Table. -/
def itemBank : Bank Item PostedItem where
  read s i := s.posted.get i
  write s i x := s.setPosted (s.posted.set i x)
  paste s t := s.setPosted t.posted
  read_write s i j x := s.posted.get_set i j x
  write_read s i := by rw [Posted.set_get]; rfl
  read_occur := State.occur_reads (fun s i => s.posted.get i) fun _ _ _ => rfl
  read_choice _ _ := rfl
  paste_write _ _ _ _ := rfl
  paste_occur s k d t := apply_ite (fun u : State => u.setPosted t.posted) _ _ _
  paste_choice _ _ _ := rfl
  paste_self _ _ := rfl

/-- The axles of the Speed Unit. -/
def speedBank : Bank Axle SpeedAxle where
  read s k := s.speed.axles.get k
  write s k x := s.setSpeedAxle k x
  paste s t := s.setSpeed { s.speed with axles := t.speed.axles }
  read_write s i j x := s.speed.axles.get_set i j x
  write_read s i := by rw [State.setSpeedAxle, PerAxle.set_get]; rfl
  read_occur := State.occur_reads (fun s k => s.speed.axles.get k) fun _ _ _ => rfl
  read_choice _ _ := rfl
  paste_write _ _ _ _ := rfl
  paste_occur s k d t := apply_ite (fun u : State => u.setSpeed { u.speed with axles := t.speed.axles }) _ _ _
  paste_choice _ _ _ := rfl
  paste_self _ _ := rfl

/-- The deviation checks of the trucks. -/
def devBank : Bank Truck DevWatch where
  read s y := s.blend.dev.get y
  write s y w := s.setDev y w
  paste s t := s.setBlend { s.blend with dev := t.blend.dev }
  read_write s i j x := s.blend.dev.get_set i j x
  write_read s i := by rw [State.setDev, PerTruck.set_get]; rfl
  read_occur := State.occur_reads (fun s y => s.blend.dev.get y) fun _ _ _ => rfl
  read_choice _ _ := rfl
  paste_write _ _ _ _ := rfl
  paste_occur s k d t := apply_ite (fun u : State => u.setBlend { u.blend with dev := t.blend.dev }) _ _ _
  paste_choice _ _ _ := rfl
  paste_self _ _ := rfl

/-! The expiries of the banks -/

/-- An item after its fresh expiry (R6). -/
def PostedItem.staled (x : PostedItem) : PostedItem := if x.mayStale then { x with cls := .stale, fresh := none } else x

theorem freshExpiry_expires : itemBank.Expires (fun i s => s.freshExpiry i) PostedItem.staled PostedItem.mayStale
    .stale itemCode := by
  intro i s
  change s.freshExpiry i = if (s.posted.get i).mayStale then
    (itemBank.write s i (s.posted.get i).staled).occur .stale (itemCode i)
    else itemBank.write s i (s.posted.get i).staled
  unfold State.freshExpiry PostedItem.staled
  dsimp only
  split
  · rfl
  · exact (itemBank.write_read s i).symm

/-- An axle after its open-tach expiry (R93). -/
def SpeedAxle.opened (x : SpeedAxle) : SpeedAxle :=
  if x.openTimer.isSome then { x with openTimer := none, openMark := true, history := [], speed := 0, cls := .fault }
  else x

theorem openTachExpiry_expires : speedBank.Expires (fun k s => s.openTachExpiry k) SpeedAxle.opened
    (fun x => x.openTimer.isSome && decide (x.cls ≠ .fault)) .tach axleNo := by
  intro k s
  change s.openTachExpiry k =
    if (s.speed.axles.get k).openTimer.isSome && decide ((s.speed.axles.get k).cls ≠ .fault) then
      (s.setSpeedAxle k (s.speed.axles.get k).opened).occur .tach (axleNo k)
    else s.setSpeedAxle k (s.speed.axles.get k).opened
  unfold State.openTachExpiry SpeedAxle.opened
  dsimp only
  cases (s.speed.axles.get k).openTimer with
  | none =>
    simp only [Option.isSome_none, Bool.false_and, Bool.false_eq_true, if_false]
    exact (speedBank.write_read s k).symm
  | some x =>
    simp only [Option.isSome_some, Bool.true_and, if_true, decide_eq_true_eq]
    exact (ite_not _ _ _).symm

/-- An axle after its zero expiry (R90). -/
def SpeedAxle.zeroed (x : SpeedAxle) : SpeedAxle :=
  if x.zero.isSome then { x with zero := none, history := [], zeroDeclared := true } else x

/-- A zero expiry is no occurrence of any exception. -/
theorem zeroExpiry_expires : speedBank.Expires (fun k s => s.zeroExpiry k) SpeedAxle.zeroed (fun _ => false) .tach
    axleNo := by
  intro k s
  change s.zeroExpiry k = s.setSpeedAxle k (s.speed.axles.get k).zeroed
  unfold State.zeroExpiry SpeedAxle.zeroed
  dsimp only
  cases (s.speed.axles.get k).zero with
  | none =>
    simp only [Option.isSome_none, Bool.false_eq_true, if_false]
    exact (speedBank.write_read s k).symm
  | some x => simp only [Option.isSome_some, if_true]

/-- A deviation check after an expiry at once (R75, R82). -/
def DevWatch.expired (w : DevWatch) : DevWatch := if w.run.isOn then ⟨.stopped, true⟩ else w

theorem deviationAtOnce_expires : devBank.Expires (fun y s => s.deviationAtOnce y) DevWatch.expired
    (fun w => w.run.isOn) .deviation truckNo := by
  intro y s
  change s.deviationAtOnce y = if (s.blend.dev.get y).run.isOn then
    (s.setDev y (s.blend.dev.get y).expired).occur .deviation (truckNo y)
    else s.setDev y (s.blend.dev.get y).expired
  unfold State.deviationAtOnce DevWatch.expired
  split
  · rfl
  · exact (devBank.write_read s y).symm

end Sys2Proof.Machine
end

section
/-! PROOFS. An accepted WRITE_PARAM: what each parameter's write does to running timers and present figures (R9,
R35, R82 to R84, R102, R103, R126, R149, R177). -/

namespace Sys2Proof.Machine

/-! Timers placed for a new run -/

theorem rerun_eq_placed (t : Option Timer) (v : Nat) : rerun t v = placed t v := by cases t <;> rfl

/-- A timer placed for a new run is past it exactly where the running timer has completed it. -/
theorem State.overNow_placed (u : State) (t : Option Timer) (v : Nat) :
    overNow (placed t v) u.now = true ↔ u.completes t v := by
  cases t with
  | none => simp [overNow, placed, State.completes]
  | some x =>
    have runs : u.completes (some x) v ↔ v ≤ (u.now - x.start).toNat := by simp [State.completes]
    exact decide_eq_true_iff.trans runs.symm

/-- Only a running timer completes a run. -/
theorem State.completes.running {u : State} {t : Option Timer} {v : Nat} (h : u.completes t v) :
    (placed t v).isSome = true := by
  obtain ⟨x, rfl, _⟩ := h
  rfl

theorem allAxles_nodup : allAxles.Nodup := by decide

theorem allTrucks_nodup : allTrucks.Nodup := by decide

/-! The Posted Value Table's fresh timers (R9) -/

/-- An item with its fresh timer placed for the new run. -/
def PostedItem.refreshed (v : Nat) (x : PostedItem) : PostedItem := { x with fresh := rerun x.fresh v }

theorem PostedItem.refreshed_eq (v : Nat) (x : PostedItem) :
    x.refreshed v = { x with fresh := placed x.fresh v } := by rw [PostedItem.refreshed, rerun_eq_placed]

/-- A table rewritten item by item is what the rewrites of the items in turn leave. -/
theorem State.setPosted_foldl (g : PostedItem → PostedItem) : ∀ (xs : List Item) (s : State),
    s.setPosted (xs.foldl (fun w i => w.set i (g (w.get i))) s.posted) = itemBank.rewriteAll g xs s := by
  intro xs
  induction xs with
  | nil => exact fun _ => rfl
  | cons i xs ih => exact fun s => ih (s.setPosted (s.posted.set i (g (s.posted.get i))))

/-- A VALID or CLAMPED item whose fresh timer runs becomes STALE. -/
theorem PostedItem.staled_of {x : PostedItem} (hf : x.fresh.isSome = true) (hc : x.cls = .valid ∨ x.cls = .clamped) :
    x.staled = { x with cls := .stale, fresh := none } := if_pos ((PostedItem.mayStale_iff x).mpr ⟨hf, hc⟩)

/-- An item of another class stays (R6). -/
theorem PostedItem.staled_of_not {x : PostedItem} (hc : ¬(x.cls = .valid ∨ x.cls = .clamped)) : x.staled = x :=
  if_neg fun h => hc ((PostedItem.mayStale_iff x).mp h).2

/-- What a write of T_FRESH leaves (R9). -/
theorem State.writeTFresh_written (u : State) (v : Nat) : ParamWritten u (u.writeParam .tFresh v) .tFresh v := by
  have past : ∀ x : PostedItem, overNow (x.refreshed v).fresh u.now = true ↔ u.completes x.fresh v := by
    intro x
    rw [PostedItem.refreshed_eq, State.overNow_placed]
  have placing := State.setPosted_foldl (PostedItem.refreshed v) allItems (u.setParams (u.params.set v .tFresh))
  have written : u.writeParam .tFresh v = (u.setParams (u.params.set v .tFresh)).applyTFresh v := rfl
  unfold State.applyTFresh Posted.rerunFresh at written
  unfold PostedItem.refreshed at placing
  rw [placing] at written
  obtain ⟨read, js, mem, nodup, chain⟩ := freshExpiry_expires.afterRewrite allItems_nodup mem_allItems
    (PostedItem.refreshed v) (fun x => overNow x.fresh u.now) written
  refine ⟨fun j => ⟨?_, fun hn => ?_⟩, js, fun j => ?_, nodup, chain⟩
  · rintro ⟨hd, hc⟩
    refine ((read j).trans (if_pos ((past _).mpr hd))).trans ?_
    rw [PostedItem.refreshed_eq]
    exact PostedItem.staled_of hd.running hc
  · refine ((read j).trans ?_).trans (PostedItem.refreshed_eq v _)
    by_cases hd : u.completes (u.posted.get j).fresh v
    · exact (if_pos ((past _).mpr hd)).trans (PostedItem.staled_of_not fun hc => hn ⟨hd, hc⟩)
    · exact if_neg fun h => hd ((past _).mp h)
  · refine (mem j).trans ?_
    rw [past]
    refine and_congr_right fun hd => ?_
    rw [PostedItem.refreshed_eq, PostedItem.mayStale_iff]
    exact and_iff_right hd.running

/-! The Speed Unit's timers (R103) -/

/-- What a write of OPEN_TIME leaves (R103). -/
theorem State.writeOpenTime_written (u : State) (v : Nat) :
    ParamWritten u (u.writeParam .openTime v) .openTime v := by
  have past : ∀ x : SpeedAxle, overNow (rerun x.openTimer v) u.now = true ↔ u.completes x.openTimer v := by
    intro x
    rw [rerun_eq_placed, State.overNow_placed]
  obtain ⟨read, ks, mem, nodup, chain⟩ := openTachExpiry_expires.afterRewrite allAxles_nodup mem_allAxles
    (fun x => { x with openTimer := rerun x.openTimer v }) (fun x => overNow x.openTimer u.now)
    (s := u.setParams (u.params.set v .openTime)) (t := u.writeParam .openTime v) rfl
  refine ⟨fun k => ⟨fun hd => ?_, fun hd => ?_⟩, ks, fun k => ?_, nodup, chain⟩
  · refine ((read k).trans (if_pos ((past _).mpr hd))).trans ?_
    rw [rerun_eq_placed]
    exact if_pos hd.running
  · refine ((read k).trans (if_neg fun h => hd ((past _).mp h))).trans ?_
    rw [rerun_eq_placed]
    rfl
  · refine (mem k).trans ((and_congr_left fun _ => past _).trans (and_congr_right fun hd => ?_))
    rw [rerun_eq_placed, Bool.and_eq_true, decide_eq_true_eq]
    exact and_iff_right hd.running

/-- What a write of ZERO_TIME leaves (R103). -/
theorem State.writeZeroTime_written (u : State) (v : Nat) :
    ParamWritten u (u.writeParam .zeroTime v) .zeroTime v := by
  have past : ∀ x : SpeedAxle, overNow (rerun x.zero v) u.now = true ↔ u.completes x.zero v := by
    intro x
    rw [rerun_eq_placed, State.overNow_placed]
  obtain ⟨read, ks, mem, _, chain⟩ := zeroExpiry_expires.afterRewrite allAxles_nodup mem_allAxles
    (fun x => { x with zero := rerun x.zero v }) (fun x => overNow x.zero u.now)
    (s := u.setParams (u.params.set v .zeroTime)) (t := u.writeParam .zeroTime v) rfl
  have none : ks = [] := List.eq_nil_iff_forall_not_mem.mpr fun k hk => by simpa using ((mem k).mp hk).2
  refine ⟨fun k => ⟨fun hd => ?_, fun hd => ?_⟩, ?_⟩
  · refine ((read k).trans (if_pos ((past _).mpr hd))).trans ?_
    rw [rerun_eq_placed]
    exact if_pos hd.running
  · refine ((read k).trans (if_neg fun h => hd ((past _).mp h))).trans ?_
    rw [rerun_eq_placed]
    rfl
  · rw [none] at chain
    obtain ⟨n, e⟩ := chain
    generalize u.writeParam .zeroTime v = t at e ⊢
    exact e.trans (congrArg (State.setChoice _) (congrArg State.choice e).symm)

/-! The deviation timers (R82) -/

/-- What a write of DEV_TIME leaves (R82). -/
theorem State.writeDevTime_written (u : State) (v : Nat) :
    ParamWritten u (u.writeParam .devTime v) .devTime v := by
  have due : ∀ y, y ∈ allTrucks.filter (fun y =>
        (u.blend.dev.get y).run.isOn && decide (v ≤ (u.blend.dev.get y).run.sofar u.now)) ↔
      (u.blend.dev.get y).run.isOn = true ∧ v ≤ (u.blend.dev.get y).run.sofar u.now := by
    intro y
    simp [mem_allTrucks]
  obtain ⟨read, ys, mem, nodup, chain⟩ := deviationAtOnce_expires.openOrder
    (allTrucks_nodup.filter fun y =>
      (u.blend.dev.get y).run.isOn && decide (v ≤ (u.blend.dev.get y).run.sofar u.now))
    (u.setParams (u.params.set v .devTime))
  refine ⟨fun y => ⟨fun hd => ?_, fun hd => ?_⟩, ys, fun y => ?_, nodup, chain⟩
  · exact ((read y).trans (if_pos ((due y).mpr hd))).trans (if_pos hd.1)
  · exact (read y).trans (if_neg fun h => hd ((due y).mp h))
  · rw [mem y, due y]
    exact and_iff_left_of_imp fun hd => hd.1

/-! Single timers, the mode and the onset histories (R35, R82, R103, R126) -/

/-- What a write of SHORT_TIME leaves (R82). -/
theorem State.writeShortTime_written (u : State) (v : Nat) :
    ParamWritten u (u.writeParam .shortTime v) .shortTime v := by
  generalize hb : u.setParams (u.params.set v .shortTime) = b
  have written : u.writeParam .shortTime v =
      if overNow (placed u.blend.short v) u.now then
        (b.setBlend { u.blend with short := placed u.blend.short v }).shortfallExpiry
      else b.setBlend { u.blend with short := placed u.blend.short v } := by
    rw [← rerun_eq_placed, ← hb]
    rfl
  rw [written]
  refine ⟨fun hd => ?_, fun hd => ?_⟩
  · rw [if_pos ((u.overNow_placed _ _).mpr hd), State.shortfallExpiry_running _ hd.running, ← hb]
    exact ⟨_, State.occur_raised _ _ _, rfl⟩
  · rw [if_neg fun h => hd ((u.overNow_placed _ _).mp h), ← hb]

/-- The standstill timer's expiry while the timer runs (R99). -/
theorem State.stillExpiry_running (s : State) (h : s.speed.still.isSome = true) :
    s.stillExpiry = (s.setSpeed { s.speed with standstill := true, still := none }).evaluateMode := by
  obtain ⟨x, hx⟩ := Option.isSome_iff_exists.mp h
  simp [State.stillExpiry, hx]

/-- What a write of STILL_TIME leaves (R103). -/
theorem State.writeStillTime_written (u : State) (v : Nat) :
    ParamWritten u (u.writeParam .stillTime v) .stillTime v := by
  generalize hb : u.setParams (u.params.set v .stillTime) = b
  have written : u.writeParam .stillTime v =
      if overNow (placed u.speed.still v) u.now then
        (b.setSpeed { u.speed with still := placed u.speed.still v }).stillExpiry
      else b.setSpeed { u.speed with still := placed u.speed.still v } := by
    rw [← rerun_eq_placed, ← hb]
    rfl
  rw [written]
  refine ⟨fun hd => ?_, fun hd => ?_⟩
  · rw [if_pos ((u.overNow_placed _ _).mpr hd), State.stillExpiry_running _ hd.running, ← hb]
    exact State.evaluateMode_settled _
  · rw [if_neg fun h => hd ((u.overNow_placed _ _).mp h), ← hb]

/-- What a write of LOCK_COUNT leaves (R126; log 17). -/
theorem State.writeLockCount_written (u : State) (v : Nat) :
    ParamWritten u (u.writeParam .lockCount v) .lockCount v :=
  ⟨fun _ => PerAxle.get_ofFn _ _, rfl⟩

/-- What a write of a LINK_TIMEOUT leaves (R177). -/
theorem State.writeLinkTimeout_written (u : State) (l : LinkId) (v : Nat) :
    ParamWritten u (u.writeParam (.linkTimeout l) v) (.linkTimeout l) v := by
  generalize hb : u.setParams (u.params.set v (.linkTimeout l)) = b
  have written : u.writeParam (.linkTimeout l) v =
      if overNow (placed (u.port l).timeout v) u.now then
        (b.setPort l { u.port l with timeout := placed (u.port l).timeout v }).linkDown l 1
      else b.setPort l { u.port l with timeout := placed (u.port l).timeout v } := by
    rw [← rerun_eq_placed, ← hb]
    rfl
  rw [written]
  refine ⟨fun hd => ?_, fun hd => ?_⟩
  · have dropped : ∀ x : LinkPort, x.drop = (b.port l).drop →
        (b.setPort l x).linkDown l 1 = b.linkDown l 1 := by
      intro x hx
      have port : (b.setPort l x).setPort l ((b.setPort l x).port l).drop = b.setPort l (b.port l).drop := by
        rw [← hx]
        simp [State.setPort, State.port]
      unfold State.linkDown
      rw [port]
    rw [if_pos ((u.overNow_placed _ _).mpr hd), dropped _ (by rw [← hb]; rfl), hb]
    exact b.linkDown_lost l 1
  · rw [if_neg fun h => hd ((u.overNow_placed _ _).mp h), ← hb]

/-! Cuts of trucks (R83) -/

/-- A record with one truck's figures replaced by a cut, and the revision raised. -/
def Alloc.cutTo (r : Alloc) (y : Truck) (z : TruckAlloc) : Alloc := { r.bump with trucks := r.trucks.set y z }

theorem Alloc.reduceTruck_eq (r : Alloc) (y : Truck) (n : Nat) :
    r.reduceTruck y n = if n < (r.trucks.get y).target then r.cutTo y ((r.trucks.get y).cut n) else r := rfl

/-- The figures of a truck cut to a bound (R80). -/
theorem TruckAlloc.cut_eq (x : TruckAlloc) (n : Nat) :
    x.cut n = { x with target := n, command := min x.command n, ramping := decide (x.command < n) } := by
  have ramps : min x.command n < n ↔ x.command < n := by omega
  simp only [TruckAlloc.cut, ramps]

/-- The figures of a truck cut below its command (R80). -/
theorem TruckAlloc.cut_below {x : TruckAlloc} {n : Nat} (h : n < x.command) :
    x.cut n = { x with target := n, command := n, ramping := false } := by
  rw [TruckAlloc.cut_eq, Nat.min_eq_right (Nat.le_of_lt h), decide_eq_false (by omega)]

/-- Reductions of trucks one after another, each by the truck's own figures: the trucks that `cut` names have their
new figures, and the revision has risen by one for each. -/
theorem forEach_cutTo (b : State) (f : Truck → State → State) (cut : Truck → Bool) (new : Truck → TruckAlloc)
    (start : Alloc) (step : ∀ y r, r.trucks.get y = start.trucks.get y →
      f y (b.setRecord r) = b.setRecord (if cut y then r.cutTo y (new y) else r)) :
    ∀ (ys : List Truck) (r : Alloc), ys.Nodup → (∀ y ∈ ys, r.trucks.get y = start.trucks.get y) →
      ∃ w : Alloc, forEach ys f (b.setRecord r) = b.setRecord w ∧
        (∀ x, w.trucks.get x = if x ∈ ys ∧ cut x = true then new x else r.trucks.get x) ∧
        w.revision = max r.revision (min 65535 (r.revision + (ys.filter cut).length)) ∧
        w = { r with revision := w.revision, trucks := w.trucks } := by
  intro ys
  induction ys with
  | nil =>
    intro r _ _
    refine ⟨r, rfl, by simp, ?_, rfl⟩
    simp only [List.filter_nil, List.length_nil]
    omega
  | cons y ys ih =>
    intro r hn hr
    obtain ⟨hy, hn⟩ := List.nodup_cons.mp hn
    have unroll : forEach (y :: ys) f (b.setRecord r) = forEach ys f (f y (b.setRecord r)) := rfl
    rw [unroll, step y r (hr y (by simp))]
    by_cases hc : cut y = true
    · have kept : ∀ x ∈ ys, (r.cutTo y (new y)).trucks.get x = start.trucks.get x := by
        intro x hx
        have hne : x ≠ y := fun e => hy (e ▸ hx)
        exact (PerTruck.get_set_ne _ _ _ _ hne).trans (hr x (by simp [hx]))
      obtain ⟨w, run, trucks, revision, same⟩ := ih (r.cutTo y (new y)) hn kept
      rw [if_pos hc]
      refine ⟨w, run, fun x => ?_, ?_, same⟩
      · rw [trucks x, Alloc.cutTo, PerTruck.get_set]
        by_cases hx : x = y
        · subst hx
          simp [hy, hc]
        · simp [hx]
      · have bumped : (r.cutTo y (new y)).revision = oneMore r.revision := rfl
        rw [revision, bumped, List.filter_cons_of_pos hc, List.length_cons, oneMore]
        split <;> omega
    · obtain ⟨w, run, trucks, revision, same⟩ := ih r hn fun x hx => hr x (by simp [hx])
      rw [if_neg hc]
      refine ⟨w, run, fun x => ?_, ?_, same⟩
      · rw [trucks x]
        by_cases hx : x = y
        · subst hx
          simp [hy, hc]
        · simp [hx]
      · rw [revision, List.filter_cons_of_neg hc]

/-- What reductions of both trucks leave of the state `b`. -/
theorem forEach_allTrucks_cutTo (b : State) (f : Truck → State → State) (cut : Truck → Bool)
    (new : Truck → TruckAlloc) (step : ∀ y r, r.trucks.get y = b.blend.record.trucks.get y →
      f y (b.setRecord r) = b.setRecord (if cut y then r.cutTo y (new y) else r)) {t : State}
    (ht : t = forEach allTrucks f b) :
    (∀ x, t.blend.record.trucks.get x = if cut x then new x else b.blend.record.trucks.get x) ∧
    t.blend.record.revision =
      max b.blend.record.revision (min 65535 (b.blend.record.revision + (allTrucks.filter cut).length)) ∧
    t = b.setRecord { b.blend.record with
      revision := t.blend.record.revision, trucks := t.blend.record.trucks } := by
  obtain ⟨w, run, trucks, revision, same⟩ := forEach_cutTo b f cut new b.blend.record step allTrucks
    b.blend.record allTrucks_nodup fun _ _ => rfl
  have run : t = b.setRecord w := ht.trans run
  rw [run]
  refine ⟨fun x => (trucks x).trans ?_, revision, congrArg b.setRecord same⟩
  simp only [mem_allTrucks, true_and]

/-- What a write of P_SERVICE_MAX leaves (R51, R83). -/
theorem State.writePServiceMax_written (u : State) (v : Nat) :
    ParamWritten u (u.writeParam .pServiceMax v) .pServiceMax v := by
  generalize hb : u.setParams (u.params.set v .pServiceMax) = b
  have written : u.writeParam .pServiceMax v = forEach allTrucks
      (fun t u => if u.airBound t < u.pressure t then u.reduceTruckByTable t (u.airBound t) else u) b := by
    rw [← hb]
    rfl
  have cuts := forEach_allTrucks_cutTo b _
    (fun y => decide (b.airBound y < (b.blend.record.trucks.get y).command) &&
      decide (b.airBound y < (b.blend.record.trucks.get y).target) &&
      !(b.demand.emergency.any && decide (0 < b.airBound y) &&
        decide ((b.blend.record.trucks.get y).target = b.params.pEmer)))
    (fun y => { b.blend.record.trucks.get y with
      target := b.airBound y, command := b.airBound y, ramping := false }) ?_ written
  · rw [← hb] at cuts
    exact cuts
  · intro y r hr
    change (if b.airBound y < (r.trucks.get y).command then
        if b.demand.emergency.any = true ∧ 0 < b.airBound y ∧ (r.trucks.get y).target = b.params.pEmer then
          b.setRecord r
        else b.setRecord (r.reduceTruck y (b.airBound y))
      else b.setRecord r) = _
    rw [Alloc.reduceTruck_eq, hr]
    by_cases below : b.airBound y < (b.blend.record.trucks.get y).command
    · rw [TruckAlloc.cut_below below]
      by_cases held : b.demand.emergency.any = true ∧ 0 < b.airBound y ∧
        (b.blend.record.trucks.get y).target = b.params.pEmer
      · simp [held]
      · have reduced : (b.demand.emergency.any && decide (0 < b.airBound y) &&
            decide ((b.blend.record.trucks.get y).target = b.params.pEmer)) = false := by
          rw [← Bool.not_eq_true]
          simpa [and_assoc] using held
        simp [below, held, reduced]
    · simp [below]

/-- What a write of P_EMER leaves (R83). -/
theorem State.writePEmer_written (u : State) (v : Nat) :
    ParamWritten u (u.writeParam .pEmer v) .pEmer v := by
  have cuts := forEach_allTrucks_cutTo (u.setParams (u.params.set v .pEmer)) (fun t u => u.reduceTruck t v)
    (fun y => decide (v < (u.blend.record.trucks.get y).target))
    (fun y => { u.blend.record.trucks.get y with
      target := v, command := min (u.blend.record.trucks.get y).command v
      ramping := decide ((u.blend.record.trucks.get y).command < v) }) ?_ (t := u.writeParam .pEmer v) rfl
  · exact cuts
  · intro y r hr
    refine congrArg (u.setParams (u.params.set v .pEmer)).setRecord ((r.reduceTruck_eq y v).trans ?_)
    rw [hr, TruckAlloc.cut_eq]
    simp only [decide_eq_true_eq]
    rfl

/-! The hold and good-hold timers (R9) -/

/-- An item with its hold and good-hold timers placed for the new run. -/
def PostedItem.reheld (v : Nat) (x : PostedItem) : PostedItem :=
  { x with hold := placed x.hold v, goodHold := placed x.goodHold v }

theorem Posted.rerunHold_get (w : Posted) (v : Nat) (j : Item) : (w.rerunHold v).get j = (w.get j).reheld v := by
  have h := Posted.foldl_set_get (fun _ x => { x with hold := rerun x.hold v, goodHold := rerun x.goodHold v })
    allItems w j allItems_nodup
  rw [if_pos (mem_allItems j), rerun_eq_placed, rerun_eq_placed] at h
  exact h

/-- An item whose good value backs nothing any more. -/
def PostedItem.unbacked (x : PostedItem) : PostedItem := { x with goodHold := none }

/-- An item after its hold expiry (R7). -/
def PostedItem.afterHold (x : PostedItem) : PostedItem := if x.mayAbsent then x.cleared else x

/-- An item after its good-hold expiry (R7). -/
def PostedItem.afterGoodHold (x : PostedItem) : PostedItem := if x.mayUnback then x.unbacked else x

/-- When a hold expiry finds a STALE or FAULT item. -/
theorem PostedItem.mayAbsent_iff (x : PostedItem) :
    x.mayAbsent = true ↔ x.hold.isSome = true ∧ (x.cls = .stale ∨ x.cls = .fault) := by
  simp [PostedItem.mayAbsent]

/-- When a good-hold expiry finds an item that is neither VALID nor CLAMPED. -/
theorem PostedItem.mayUnback_iff (x : PostedItem) :
    x.mayUnback = true ↔ x.goodHold.isSome = true ∧ x.cls ≠ .valid ∧ x.cls ≠ .clamped := by
  simp [PostedItem.mayUnback, and_assoc]

theorem State.holdExpiry_get (s : State) (i j : Item) :
    (s.holdExpiry i).posted.get j = if j = i then (s.posted.get j).afterHold else s.posted.get j := by
  unfold State.holdExpiry PostedItem.afterHold
  by_cases h : (s.posted.get i).mayAbsent = true
  · rw [if_pos h, State.handPosted_posted]
    refine (Posted.get_set _ _ _ _).trans ?_
    split
    · next e => rw [e, if_pos h]
    · rfl
  · rw [if_neg h]
    split
    · next e => rw [e, if_neg h]
    · rfl

theorem State.goodHoldExpiry_get (s : State) (i j : Item) :
    (s.goodHoldExpiry i).posted.get j = if j = i then (s.posted.get j).afterGoodHold else s.posted.get j := by
  unfold State.goodHoldExpiry PostedItem.afterGoodHold
  by_cases h : (s.posted.get i).mayUnback = true
  · rw [if_pos h, State.handPosted_posted]
    refine (Posted.get_set _ _ _ _).trans ?_
    split
    · next e =>
      rw [e, if_pos h]
      rfl
    · rfl
  · rw [if_neg h]
    split
    · next e => rw [e, if_neg h]
    · rfl

/-- What an item `x` can be while a hold expiry, if `hold`, and a good-hold expiry, if `good`, come on it. -/
def PostedItem.Ages (x : PostedItem) (hold good : Prop) (y : PostedItem) : Prop :=
  y = x ∨ (good ∧ x.mayUnback = true ∧ y = x.unbacked) ∨ (hold ∧ x.mayAbsent = true ∧ y = x.cleared)

/-- The hold expiry of an item that it finds STALE or FAULT ends it, whether or not its good value still backs it;
of another it has no effect. -/
theorem PostedItem.Ages.afterHold {x y : PostedItem} {hold good : Prop} (h : x.Ages hold good y) :
    (x.mayAbsent = true → y.afterHold = x.cleared) ∧ (x.mayAbsent = false → y.afterHold = y) := by
  have keeps : ∀ z : PostedItem, z.mayAbsent = false → z.afterHold = z := fun z hz => if_neg (by simp [hz])
  rcases h with rfl | ⟨_, _, rfl⟩ | ⟨_, _, rfl⟩
  · exact ⟨fun ha => if_pos ha, keeps y⟩
  · exact ⟨fun ha => if_pos ha, keeps x.unbacked⟩
  · exact ⟨fun _ => rfl, fun _ => rfl⟩

/-- A good-hold expiry ends the backing of an item that has not become ABSENT. -/
theorem PostedItem.Ages.afterGoodHold {x y : PostedItem} {hold good : Prop} (h : x.Ages hold good y) :
    y.afterGoodHold = y ∨ x.mayUnback = true ∧ y.afterGoodHold = x.unbacked := by
  rcases h with rfl | ⟨_, _, rfl⟩ | ⟨_, _, rfl⟩
  · by_cases hu : y.mayUnback = true
    · exact .inr ⟨hu, if_pos hu⟩
    · exact .inl (if_neg hu)
  · exact .inl rfl
  · exact .inl rfl

/-- What an item can be after a step that is no more than the expiries that may come on it. -/
theorem PostedItem.Ages.step {x y z : PostedItem} {hold good : Prop} (h : x.Ages hold good y)
    (hz : z = y ∨ (hold ∧ z = y.afterHold) ∨ (good ∧ z = y.afterGoodHold)) : x.Ages hold good z := by
  rcases hz with rfl | ⟨hh, rfl⟩ | ⟨hg, rfl⟩
  · exact h
  · cases ha : x.mayAbsent
    · rwa [h.afterHold.2 ha]
    · exact .inr (.inr ⟨hh, ha, h.afterHold.1 ha⟩)
  · rcases h.afterGoodHold with e | ⟨hu, e⟩
    · rwa [e]
    · exact .inr (.inl ⟨hg, hu, e⟩)

/-- The hold expiries of the items `hs` and the good-hold expiries of the items `gs`. -/
def agings (hs gs : List Item) : List (State → State) :=
  (hs.map fun i => (·.holdExpiry i)) ++ gs.map fun i => (·.goodHoldExpiry i)

/-- Each item after hold and good-hold expiries in an order left open: ABSENT where its hold expiry finds it STALE
or FAULT, and else without its backing where its good-hold expiry finds it neither VALID nor CLAMPED. -/
theorem inAnyOrder_ages (hs gs : List Item) (s : State) (j : Item) :
    let y := (inAnyOrder (agings hs gs) s).posted.get j
    let x := s.posted.get j
    (j ∈ hs ∧ x.mayAbsent = true → y = x.cleared) ∧
    (¬(j ∈ hs ∧ x.mayAbsent = true) → j ∈ gs ∧ x.mayUnback = true → y = x.unbacked) ∧
    (¬(j ∈ hs ∧ x.mayAbsent = true) → ¬(j ∈ gs ∧ x.mayUnback = true) → y = x) := by
  intro y x
  have each : ∀ f ∈ agings hs gs, ∀ u : State,
      (f u).posted.get j = u.posted.get j ∨ (j ∈ hs ∧ (f u).posted.get j = (u.posted.get j).afterHold) ∨
        (j ∈ gs ∧ (f u).posted.get j = (u.posted.get j).afterGoodHold) := by
    intro f hf u
    rcases List.mem_append.mp hf with hf | hf
    · obtain ⟨i, hi, rfl⟩ := List.mem_map.mp hf
      by_cases e : j = i
      · exact .inr (.inl ⟨e ▸ hi, (u.holdExpiry_get i j).trans (if_pos e)⟩)
      · exact .inl ((u.holdExpiry_get i j).trans (if_neg e))
    · obtain ⟨i, hi, rfl⟩ := List.mem_map.mp hf
      by_cases e : j = i
      · exact .inr (.inr ⟨e ▸ hi, (u.goodHoldExpiry_get i j).trans (if_pos e)⟩)
      · exact .inl ((u.goodHoldExpiry_get i j).trans (if_neg e))
  have ages : x.Ages (j ∈ hs) (j ∈ gs) y :=
    inAnyOrder_keeps (fun u => x.Ages (j ∈ hs) (j ∈ gs) (u.posted.get j)) (fun _ _ h => h) _
      (fun f hf u h => h.step (each f hf u)) s (.inl rfl)
  refine ⟨fun ⟨hh, ha⟩ => ?_, fun hn ⟨hg, hu⟩ => ?_, fun hn hm => ?_⟩
  · refine inAnyOrder_reaches (fun u => x.Ages (j ∈ hs) (j ∈ gs) (u.posted.get j))
      (fun u => u.posted.get j = x.cleared) (fun _ _ h => h) (fun _ _ _ h => h) _
      (fun f hf u h => h.step (each f hf u)) (fun f hf u _ h => ?_) (·.holdExpiry j)
      (List.mem_append_left _ (List.mem_map_of_mem hh)) (fun u h => ?_) s (.inl rfl)
    · rcases each f hf u with e | ⟨_, e⟩ | ⟨_, e⟩
      · exact e.trans h
      · rw [e, h]
        rfl
      · rw [e, h]
        rfl
    · exact ((u.holdExpiry_get j j).trans (if_pos rfl)).trans (h.afterHold.1 ha)
  · refine inAnyOrder_reaches (fun u => x.Ages (j ∈ hs) (j ∈ gs) (u.posted.get j))
      (fun u => u.posted.get j = x.unbacked) (fun _ _ h => h) (fun _ _ _ h => h) _
      (fun f hf u h => h.step (each f hf u)) (fun f hf u ho h => ?_) (·.goodHoldExpiry j)
      (List.mem_append_right _ (List.mem_map_of_mem hg)) (fun u h => ?_) s (.inl rfl)
    · rcases each f hf u with e | ⟨hh, e⟩ | ⟨_, e⟩
      · exact e.trans h
      · have ha : x.mayAbsent = false := Bool.not_eq_true _ ▸ fun ha => hn ⟨hh, ha⟩
        exact e.trans ((ho.afterHold.2 ha).trans h)
      · rw [e, h]
        rfl
    · refine ((u.goodHoldExpiry_get j j).trans (if_pos rfl)).trans ?_
      rcases h with e | ⟨_, _, e⟩ | ⟨hh, ha, _⟩
      · rw [e]
        exact if_pos hu
      · rw [e]
        rfl
      · exact absurd ⟨hh, ha⟩ hn
  · rcases ages with e | ⟨hg, hu, _⟩ | ⟨hh, ha, _⟩
    · exact e
    · exact absurd ⟨hg, hu⟩ hm
    · exact absurd ⟨hh, ha⟩ hn

/-- A state with the parts that hold and good-hold expiries touch taken from another. -/
def State.unaged (t s : State) : State :=
  { t with posted := s.posted, demand := s.demand, res := s.res, blend := s.blend, choice := s.choice }

/-- What hold and good-hold expiries touch. -/
theorem inAnyOrder_agings_unaged (hs gs : List Item) (s : State) : (inAnyOrder (agings hs gs) s).unaged s = s := by
  refine inAnyOrder_keeps (fun u => u.unaged s = s) (fun _ _ h => h) _ (fun f hf u h => ?_) s rfl
  rcases List.mem_append.mp hf with hf | hf
  · obtain ⟨i, _, rfl⟩ := List.mem_map.mp hf
    obtain ⟨p, d, r, b, e⟩ := u.holdExpiry_frame i
    exact (congrArg (fun w : State => w.unaged s) e).trans h
  · obtain ⟨i, _, rfl⟩ := List.mem_map.mp hf
    obtain ⟨p, d, r, b, e⟩ := u.goodHoldExpiry_frame i
    exact (congrArg (fun w : State => w.unaged s) e).trans h

/-- A state that differs from another only in those parts. -/
theorem State.eq_of_unaged {t s : State} (h : t.unaged s = s) :
    t = ((((s.setPosted t.posted).setDemand t.demand).setRes t.res).setBlend t.blend).setChoice t.choice := by
  rw [← h]
  cases t
  rfl

/-- What a write of T_HOLD leaves (R9; log 30). -/
theorem State.writeTHold_written (u : State) (v : Nat) : ParamWritten u (u.writeParam .tHold v) .tHold v := by
  generalize hs : (u.setParams (u.params.set v .tHold)).setPosted (u.posted.rerunHold v) = s
  generalize hh : allItems.filter (fun i => overNow (s.posted.get i).hold u.now) = holds
  generalize hg : allItems.filter (fun i => overNow (s.posted.get i).goodHold u.now) = goods
  have written : u.writeParam .tHold v =
      inAnyOrder (agings holds goods) s := by
    rw [← hh, ← hg, ← hs]
    rfl
  have item : ∀ j, s.posted.get j = (u.posted.get j).reheld v := by
    rw [← hs]
    exact u.posted.rerunHold_get v
  have due : ∀ j, j ∈ holds ↔ u.completes (u.posted.get j).hold v := by
    intro j
    rw [← hh, List.mem_filter, item]
    exact (and_iff_right (mem_allItems j)).trans (u.overNow_placed _ _)
  have dueGood : ∀ j, j ∈ goods ↔ u.completes (u.posted.get j).goodHold v := by
    intro j
    rw [← hg, List.mem_filter, item]
    exact (and_iff_right (mem_allItems j)).trans (u.overNow_placed _ _)
  have absents : ∀ j, j ∈ holds ∧ (s.posted.get j).mayAbsent = true ↔
      u.completes (u.posted.get j).hold v ∧ ((u.posted.get j).cls = .stale ∨ (u.posted.get j).cls = .fault) := by
    intro j
    rw [due, item]
    refine and_congr_right fun hd => ?_
    exact (PostedItem.mayAbsent_iff _).trans (and_iff_right hd.running)
  have unbacks : ∀ j, j ∈ goods ∧ (s.posted.get j).mayUnback = true ↔
      u.completes (u.posted.get j).goodHold v ∧ (u.posted.get j).cls ≠ .valid ∧ (u.posted.get j).cls ≠ .clamped := by
    intro j
    rw [dueGood, item]
    refine and_congr_right fun hd => ?_
    exact (PostedItem.mayUnback_iff _).trans (and_iff_right hd.running)
  have ages := inAnyOrder_ages holds goods s
  have chain : InSomeOrder (holds.map HoldTaken ++ goods.map GoodHoldTaken) s (u.writeParam .tHold v) := by
    rw [written]
    exact inAnyOrder_chained _ _ (List.rel_append (forall₂_map_map (fun i a => a.holdExpiry_taken i) holds)
      (forall₂_map_map (fun i a => a.goodHoldExpiry_taken i) goods)) s
  have frame := State.eq_of_unaged (inAnyOrder_agings_unaged holds goods s)
  rw [← written] at ages frame
  generalize u.writeParam .tHold v = t at *
  refine ⟨fun j => ?_, ?_, u.posted.rerunHold v, holds, goods, u.posted.rerunHold_get v, due, ?_, dueGood, ?_, ?_⟩
  · obtain ⟨ends, loses, stays⟩ := ages j
    rw [absents j, unbacks j] at loses stays
    rw [absents j] at ends
    rw [item] at ends loses stays
    refine ⟨ends, fun hn => ?_, fun hn hu => ?_, fun hn hu => ?_⟩
    · by_cases hu : u.completes (u.posted.get j).goodHold v ∧
        (u.posted.get j).cls ≠ .valid ∧ (u.posted.get j).cls ≠ .clamped
      · rw [loses hn hu]
        rfl
      · rw [stays hn hu]
        rfl
    · rw [loses hn hu]
      rfl
    · rw [stays hn hu]
      rfl
  · rw [← hs] at frame
    exact frame
  · rw [← hh]
    exact allItems_nodup.filter _
  · rw [← hg]
    exact allItems_nodup.filter _
  · rw [← hs] at chain
    exact chain

/-! All parameters -/

/-- What a write of any parameter leaves (R183). -/
theorem State.writeParam_written (u : State) (i : ParamId) (v : Nat) : ParamWritten u (u.writeParam i v) i v := by
  cases i
  case tFresh => exact u.writeTFresh_written v
  case tHold => exact u.writeTHold_written v
  case dMax | penEffort => exact State.demandChanged_settled _ _
  case pServiceMax => exact u.writePServiceMax_written v
  case pEmer => exact u.writePEmer_written v
  case shortTime => exact u.writeShortTime_written v
  case devTime => exact u.writeDevTime_written v
  case zeroTime => exact u.writeZeroTime_written v
  case openTime => exact u.writeOpenTime_written v
  case stillTime => exact u.writeStillTime_written v
  case lockCount => exact u.writeLockCount_written v
  case linkTimeout l => exact u.writeLinkTimeout_written l v
  all_goals rfl

theorem Raised.links {a m : State} {k : ExcKind} {d : Nat} (h : Raised a m k d) : m.links = a.links := by
  rw [h.same]
  rfl

/-- Occurrences one after another leave the links. -/
theorem Chained.raised_links {α : Type} {xs : List α} {k : ExcKind} {code : α → Nat} {s t : State}
    (h : Chained (xs.map fun x a m => Raised a m k (code x)) s t) : t.links = s.links := by
  refine h.keeps (fun u => u.links = s.links) (fun _ _ e => e) (fun r hr a m ham e => ?_) rfl
  obtain ⟨x, _, rfl⟩ := List.mem_map.mp hr
  exact (Raised.links ham).trans e

/-- No write but that of a LINK_TIMEOUT touches the links. -/
theorem ParamWritten.links {u t : State} {i : ParamId} {v : Nat} (h : ParamWritten u t i v)
    (hi : ∀ l, i ≠ .linkTimeout l) : t.links = u.links := by
  cases i
  case tFresh | devTime | openTime =>
    obtain ⟨_, _, _, _, chain⟩ := h
    exact chain.raised_links
  case tHold =>
    obtain ⟨_, same, _⟩ := h
    exact (congrArg State.links same :)
  case dMax | penEffort => exact (ModeSettled.links h :)
  case pServiceMax | pEmer =>
    obtain ⟨_, _, same⟩ := h
    exact (congrArg State.links same :)
  case shortTime =>
    obtain ⟨expired, placed⟩ := h
    by_cases hd : u.completes u.blend.short v
    · obtain ⟨m, raised, rfl⟩ := expired hd
      exact raised.links
    · exact (congrArg State.links (placed hd) :)
  case zeroTime | lockCount =>
    obtain ⟨_, same⟩ := h
    exact (congrArg State.links same :)
  case stillTime =>
    obtain ⟨expired, placed⟩ := h
    by_cases hd : u.completes u.speed.still v
    · exact (ModeSettled.links (expired hd) :)
    · exact (congrArg State.links (placed hd) :)
  case linkTimeout l => exact absurd rfl (hi l)
  all_goals
    have same : t = u.setParams _ := h
    exact (congrArg State.links same :)

/-- The link timeout timer that a passing frame has just started has completed no run (R177). -/
theorem State.arrive_not_completes (s : State) (l : LinkId) {v : Nat} (hv : 0 < v) :
    ¬(s.arrive l).completes ((s.arrive l).port l).timeout v := by
  obtain ⟨r, b, y, e⟩ := s.arrive_frame l
  have started : ((s.arrive l).port l).timeout = some ⟨s.now, s.linkRun l⟩ := by
    have port : (s.arrive l).port l = s.portAfterPass l := by
      rw [e]
      exact PerLink.get_set_self _ _ _
    rw [port]
    unfold State.portAfterPass LinkPort.pass
    split
    · rfl
    · split <;> rfl
    · rfl
  have now : (s.arrive l).now = s.now := by
    rw [e]
    rfl
  rintro ⟨x, hx, hr⟩
  rw [started] at hx
  cases hx
  rw [now] at hr
  simp at hr
  omega

/-- The link on which an accepted WRITE_PARAM has arrived does not go DOWN by it. -/
theorem State.writeParam_port {s u : State} {r : Req} (h : s.Takes 64 r u) {i : ParamId} {v : Nat}
    (ha : u.params.accepts i v = true) : ((u.writeParam i v).port r.link).state ≠ .down := by
  obtain ⟨_, _, rfl, _⟩ := h
  have before := s.arrive_up r.link
  have written := (s.arrive r.link).writeParam_written i v
  by_cases hi : ∀ l, i ≠ .linkTimeout l
  · rwa [State.port, written.links hi]
  · obtain ⟨l, rfl⟩ := not_forall_not.mp hi
    by_cases hd : (s.arrive r.link).completes ((s.arrive r.link).port l).timeout v
    · have other : r.link ≠ l := by
        rintro rfl
        have range : 10 ≤ v := by
          simp only [Params.accepts, Params.bounds, Bool.and_eq_true] at ha
          obtain ⟨⟨least, _⟩, _⟩ := ha
          exact of_decide_eq_true least
        exact s.arrive_not_completes r.link (by omega) hd
      rw [(written.1 hd).others r.link other]
      exact before
    · rw [written.2 hd]
      by_cases e : r.link = l
      · subst e
        rw [State.port, State.setPort, State.setLinks_links, PerLink.get_set_self]
        exact before
      · rw [State.port, State.setPort, State.setLinks_links, PerLink.get_set_ne _ _ _ _ e]
        exact before

/-- Settles O48: the rule of WRITE_PARAM is the write of the parameter, and the link that brought it answers. -/
theorem parameterEffects : Obligations.ParameterEffects := by
  intro r s u i ht hi hs ha
  have still : (needsStandstill i && !u.speed.standstill) = false := by
    rcases hs with h | h <;> simp [h]
  have body : writeParamAnswer r u = answerOk (u.writeParam i (param1 r))
      ((u.writeParam i (param1 r)).paramWords (selectorNo r) i) := by
    unfold writeParamAnswer
    rw [show paramOf (selectorNo r) = some i from hi]
    dsimp only
    rw [still, show u.params.accepts i (param1 r) = true from ha]
    rfl
  refine ⟨u.writeParam i (param1 r), (u.writeParam i (param1 r)).paramWords (selectorNo r) i, ?_,
    u.writeParam_written i _⟩
  refine congrArg _ ((State.serve_takes s u 64 r (writeParamAnswer r) ht).trans ?_)
  rw [body]
  exact Answer.conclude_some _ _ _ _ _ (State.writeParam_port ht ha)

end Sys2Proof.Machine
end

section
/-! PROOFS. Reductions: the figures that one leaves, that a second one leaves the lower of two bounds, and what no
reduction touches (R45, R77, R79 to R81). -/

namespace Sys2Proof.Machine

/-- The figures of an actuator that a reduction may touch: an axle's effort or a truck's pressure. -/
structure Figures where
  target : Nat
  command : Nat
  ramping : Bool

/-- The figures of an axle. -/
def AxleAlloc.figures (x : AxleAlloc) : Figures := ⟨x.target, x.command, x.ramping⟩

/-- The figures of a truck. -/
def TruckAlloc.figures (x : TruckAlloc) : Figures := ⟨x.target, x.command, x.ramping⟩

/-- `y` is `x` lowered to the bound `b`: the target, a command that did not lie above its target, and a ramping
indication that told the truth and still does (R45, R79, R80). -/
structure Figures.LoweredTo (b : Nat) (x y : Figures) : Prop where
  target : y.target = min x.target b
  command : x.command ≤ x.target → y.command = min x.command b
  ramping : x.ramping = decide (x.command < x.target) → y.ramping = decide (y.command < y.target)

/-- Lowered twice, the figures are lowered to the lower of the two bounds. -/
theorem Figures.LoweredTo.trans {a b : Nat} {x y z : Figures} (h : x.LoweredTo a y) (g : y.LoweredTo b z) :
    x.LoweredTo (min a b) z where
  target := by rw [g.target, h.target, min_assoc]
  command hx := by
    have hy : y.command ≤ y.target := by
      rw [h.command hx, h.target]
      exact min_le_min_right a hx
    rw [g.command hy, h.command hx, min_assoc]
  ramping hx := g.ramping (h.ramping hx)

/-- A bound at the target or above lowers nothing. -/
theorem Figures.LoweredTo.of_le {b : Nat} {x : Figures} (h : x.target ≤ b) : x.LoweredTo b x where
  target := (min_eq_left h).symm
  command hx := (min_eq_left (hx.trans h)).symm
  ramping := id

/-- A bound below the target lowers target and command to itself. -/
theorem Figures.LoweredTo.of_lt {b : Nat} {x : Figures} (h : b < x.target) :
    x.LoweredTo b ⟨b, min x.command b, decide (min x.command b < b)⟩ where
  target := (min_eq_right h.le).symm
  command _ := rfl
  ramping _ := rfl

/-- A reduction lowers its axle's figures to its bound (R79). -/
theorem Alloc.reduceAxle_lowers (r : Alloc) (k : Axle) (b : Nat) (w : Reason) :
    (r.axles.get k).figures.LoweredTo b ((r.reduceAxle k b w).axles.get k).figures := by
  rcases r.reduceAxle_cases k b w with ⟨hb, h⟩ | ⟨hb, h⟩
  · rw [h, PerAxle.get_set_self]
    exact .of_lt hb
  · rw [h]
    exact .of_le hb

/-- A reduction of a truck lowers that truck's figures to its bound (R80). -/
theorem Alloc.reduceTruck_lowers (r : Alloc) (y : Truck) (b : Nat) :
    (r.trucks.get y).figures.LoweredTo b ((r.reduceTruck y b).trucks.get y).figures := by
  rcases r.reduceTruck_cases y b with ⟨hb, h⟩ | ⟨hb, h⟩
  · rw [h, PerTruck.get_set_self]
    exact .of_lt hb
  · rw [h]
    exact .of_le hb

/-- A reduction of an axle touches the revision and that axle's figures (R81). -/
theorem Alloc.reduceAxle_frame (r : Alloc) (k : Axle) (b : Nat) (w : Reason) :
    (∀ j, j ≠ k → (r.reduceAxle k b w).axles.get j = r.axles.get j) ∧
    r.reduceAxle k b w =
      { r with revision := (r.reduceAxle k b w).revision, axles := (r.reduceAxle k b w).axles } := by
  rcases r.reduceAxle_cases k b w with ⟨_, h⟩ | ⟨_, h⟩
  · rw [h]
    exact ⟨fun j hj => PerAxle.get_set_ne _ _ _ _ hj, rfl⟩
  · rw [h]
    exact ⟨fun _ _ => rfl, rfl⟩

/-- A reduction of a truck touches the revision and that truck's figures (R81). -/
theorem Alloc.reduceTruck_frame (r : Alloc) (y : Truck) (b : Nat) :
    (∀ j, j ≠ y → (r.reduceTruck y b).trucks.get j = r.trucks.get j) ∧
    r.reduceTruck y b =
      { r with revision := (r.reduceTruck y b).revision, trucks := (r.reduceTruck y b).trucks } := by
  rcases r.reduceTruck_cases y b with ⟨_, h⟩ | ⟨_, h⟩
  · rw [h]
    exact ⟨fun j hj => PerTruck.get_set_ne _ _ _ _ hj, rfl⟩
  · rw [h]
    exact ⟨fun _ _ => rfl, rfl⟩

/-- Settles O35: two reductions lower the figures one after the other, and each leaves all else. -/
theorem cutsTakeTheLowestBound : Obligations.CutsTakeTheLowestBound := by
  constructor
  · intro s k a b v w
    let r := s.blend.record.reduceAxle k a v
    obtain ⟨target, command, ramping⟩ :=
      (s.blend.record.reduceAxle_lowers k a v).trans (r.reduceAxle_lowers k b w)
    obtain ⟨others, same⟩ := s.blend.record.reduceAxle_frame k a v
    obtain ⟨others', same'⟩ := r.reduceAxle_frame k b w
    refine ⟨target, command, ramping, fun j hj => (others' j hj).trans (others j hj),
      (s.reduceAxle_onlyCut k a v).trans ((s.reduceAxle k a v).reduceAxle_onlyCut k b w), ?_⟩
    refine congrArg s.setRecord (same'.trans ?_)
    exact congrArg (fun x : Alloc => { x with
      revision := (r.reduceAxle k b w).revision, axles := (r.reduceAxle k b w).axles }) same
  · intro s y a b
    let r := s.blend.record.reduceTruck y a
    obtain ⟨target, command, ramping⟩ :=
      (s.blend.record.reduceTruck_lowers y a).trans (r.reduceTruck_lowers y b)
    obtain ⟨others, same⟩ := s.blend.record.reduceTruck_frame y a
    obtain ⟨others', same'⟩ := r.reduceTruck_frame y b
    refine ⟨target, command, ramping, fun j hj => (others' j hj).trans (others j hj),
      (s.reduceTruck_onlyCut y a).trans ((s.reduceTruck y a).reduceTruck_onlyCut y b), ?_⟩
    refine congrArg s.setRecord (same'.trans ?_)
    exact congrArg (fun x : Alloc => { x with
      revision := (r.reduceTruck y b).revision, trucks := (r.reduceTruck y b).trucks }) same

end Sys2Proof.Machine
end

section
/-! PROOFS. The Effort Resource Table's requests: reads, the checks of a write, and what an accepted write leaves
(R38 to R41, R47, R49 to R54, R56). -/

namespace Sys2Proof.Machine

/-! Codes (Tables 3-1 and 3-2) -/

/-- The code of an electric resource is its axle's number. -/
theorem resourceOf_axleNo (k : Axle) : resourceOf (axleNo k) = some (.electric k) := by cases k <;> rfl

/-- The code of an air resource stands 6 above its truck's number. -/
theorem resourceOf_truckNo (y : Truck) : resourceOf (6 + truckNo y) = some (.air y) := by cases y <;> rfl

/-- No code outside 1 to 8 is a resource's. -/
theorem resourceOf_eq_none {n : Nat} (h : n = 0 ∨ 8 < n) : resourceOf n = none := by
  unfold resourceOf
  split
  case h_9 => rfl
  all_goals omega

/-- No code above 7 is a field's. -/
theorem fieldOf_eq_none {n : Nat} (h : 7 < n) : fieldOf n = none := by
  unfold fieldOf
  split
  case h_9 => rfl
  all_goals omega

/-- A selector of 0 or above 8 names no resource. -/
theorem resourceOf_selectorNo_eq_none {r : Req} (h : r.selector = 0 ∨ 8 < r.selector.toNat) :
    resourceOf (selectorNo r) = none := by
  refine resourceOf_eq_none (h.imp_left fun h0 => ?_)
  rw [selectorNo, h0]
  rfl

/-! READ_RES -/

/-- READ_RES of a resource's code answers with the resource's words. -/
theorem exec_readRes_of_resource {r : Req} {s u : State} {x : Resource} (h : s.Takes 49 r u)
    (hx : resourceOf (selectorNo r) = some x) :
    exec (.readRes r) s = .next (u.answered 49 r .ok (u.resourceWords x)) := by
  refine congrArg _ (State.serve_ok h ?_ rfl)
  rw [readResAnswer, hx]

/-- Settles O29: the selector names the resource whose words are the answer. -/
theorem resourceReads : Obligations.ResourceReads := by
  refine fun r s u h => ⟨fun k hk => ?_, fun y hy => ?_, fun hr => ?_⟩
  · exact exec_readRes_of_resource (x := .electric k) h (by rw [selectorNo, hk, resourceOf_axleNo])
  · exact exec_readRes_of_resource (x := .air y) h (by rw [selectorNo, hy, resourceOf_truckNo])
  · refine congrArg _ (State.serve_refuse h ?_)
    rw [readResAnswer, resourceOf_selectorNo_eq_none hr]

/-! The checks of WRITE_RES -/

/-- An accepted write of a field leaves the links. -/
theorem State.writeResource_links (u : State) (x : Resource) (f : Field) (v : Nat) :
    (u.writeResource x f v).links = u.links := by
  cases x with
  | electric k =>
    obtain ⟨_, _, e⟩ := u.writeElectric_frame k f v
    exact (congrArg State.links e :)
  | air y =>
    obtain ⟨_, _, e⟩ := u.writeAir_frame y f v
    exact (congrArg State.links e :)

/-- The rule of WRITE_RES where a code is unknown (R53 check 1). -/
theorem writeResAnswer_of_unknown {r : Req} (u : State)
    (h : resourceOf r.selector.toNat = none ∨ fieldOf r.field.toNat = none) :
    writeResAnswer r u = refuse u .refusedRange := by
  unfold writeResAnswer
  rw [selectorNo]
  split
  · rcases h with h | h <;> simp_all
  · rfl

/-- The rule of WRITE_RES where both codes are known: the checks for the link and the value, in this order, then
the write (R53, R54). -/
theorem writeResAnswer_of_codes {r : Req} {x : Resource} {f : Field} (u : State)
    (hx : resourceOf r.selector.toNat = some x) (hf : fieldOf r.field.toNat = some f) :
    writeResAnswer r u =
      if u.mayWrite r.link x f = false then refuse u .refusedMember
      else if u.fieldOk x f r.words.w1.toNat = false then refuse u .refusedRange
      else answerOk (u.writeResource x f r.words.w1.toNat)
        ((u.writeResource x f r.words.w1.toNat).resourceWords x) := by
  unfold writeResAnswer
  rw [selectorNo, hx, hf]
  simp [param1]

/-- WRITE_RES that passes its checks writes the field and answers with the entry as it then stands (R54). -/
theorem exec_writeRes_accepted {r : Req} {s u : State} {x : Resource} {f : Field} (h : s.Takes 48 r u)
    (hx : resourceOf r.selector.toNat = some x) (hf : fieldOf r.field.toNat = some f)
    (may : u.mayWrite r.link x f = true) (fits : u.fieldOk x f r.words.w1.toNat = true) :
    exec (.writeRes r) s = .next ((u.writeResource x f r.words.w1.toNat).answered 48 r .ok
      ((u.writeResource x f r.words.w1.toNat).resourceWords x)) := by
  refine congrArg _ (State.serve_ok h ?_ (u.writeResource_links x f _))
  simp [writeResAnswer_of_codes u hx hf, may, fits]

/-- The entry of a resource. -/
def State.entryOf (s : State) : Resource → Entry
  | .electric k => s.res.electric.get k
  | .air y => s.res.air.get y

/-- A write of the value already held changes nothing (R54). -/
theorem State.writeResource_of_eq {u : State} {x : Resource} {f : Field} {v : Nat}
    (h : (u.entryOf x).write f v = u.entryOf x) : u.writeResource x f v = u := by
  cases x with
  | electric k => exact if_pos h
  | air y => exact if_pos h

/-- The members field is written from the M-link alone, another field from a member too (R53 checks 2 and 3). -/
theorem State.mayWrite_iff (u : State) (l : LinkId) (x : Resource) (f : Field) :
    u.mayWrite l x f = true ↔ l = .m ∨ (f ≠ .members ∧ (u.entryOf x).members.has l = true) := by
  cases x <;> simp [State.mayWrite, State.membersOf, State.entryOf]

/-- Settles O27: the checks come in the order of the rule's branches. -/
theorem writeResChecks : Obligations.WriteResChecks := by
  intro r s u h
  refine ⟨fun hr => ?_, fun x f hx hf => ?_⟩
  · refine congrArg _ (State.serve_refuse h (writeResAnswer_of_unknown u ?_))
    rcases hr with h0 | h8 | h7
    · exact .inl (resourceOf_selectorNo_eq_none (.inl h0))
    · exact .inl (resourceOf_selectorNo_eq_none (.inr h8))
    · exact .inr (fieldOf_eq_none h7)
  · intro e fits may
    have entry : e = u.entryOf x := by cases x <;> rfl
    have may_iff : u.mayWrite r.link x f = true ↔ may := by rw [u.mayWrite_iff, ← entry]
    have fits_iff : u.fieldOk x f r.words.w1.toNat = true ↔ fits := by
      cases x <;> cases f <;> simp [fits, e, State.fieldOk, electricFieldOk, airFieldOk]
    have rule := writeResAnswer_of_codes u hx hf
    refine ⟨fun hm => ?_, fun hm hv => ?_, fun hm hv => ?_⟩
    · have refused : u.mayWrite r.link x f = false := Bool.eq_false_iff.mpr (mt may_iff.mp hm)
      exact congrArg _ (State.serve_refuse h (rule.trans (if_pos refused)))
    · have allowed : u.mayWrite r.link x f = true := may_iff.mpr hm
      have refused : u.fieldOk x f r.words.w1.toNat = false := Bool.eq_false_iff.mpr (mt fits_iff.mp hv)
      refine congrArg _ (State.serve_refuse h (rule.trans ?_))
      simp [allowed, refused]
    · refine ⟨_, exec_writeRes_accepted h hx hf (may_iff.mpr hm) (fits_iff.mpr hv), fun same => ?_⟩
      exact State.writeResource_of_eq (entry ▸ same)

/-! What an accepted write leaves -/

/-- The record after a reduction of axle `k` from the resource table: the bound must lie below the command
(R50, R51). -/
def State.axleCutBy (s : State) (k : Axle) : Option (Nat × Reason) → Alloc
  | some (b, why) => if b < s.command k then s.blend.record.reduceAxle k b why else s.blend.record
  | none => s.blend.record

/-- The record after a reduction of truck `y` from the resource table: the bound must lie below the command, and
while emergency is in force a bound above 0 leaves a target at P_EMER (R50 to R52, R80). -/
def State.truckCutBy (s : State) (y : Truck) : Option Nat → Alloc
  | some b =>
    if b < s.pressure y ∧ ¬(s.demand.emergency.any = true ∧ 0 < b ∧
        (s.blend.record.trucks.get y).target = s.params.pEmer) then
      s.blend.record.reduceTruck y b
    else s.blend.record
  | none => s.blend.record

/-- A bound of EA_k below the command reduces the axle, beside the entry put in place. -/
theorem State.reduceAxle_if (s : State) (k : Axle) (e : Entry) (b : Nat) (why : Reason) :
    (if b < s.command k then (s.setElectric k e).reduceAxle k b why else s.setElectric k e) =
      (s.setElectric k e).setRecord (s.axleCutBy k (some (b, why))) := by
  dsimp only [State.axleCutBy]
  split <;> rfl

/-- A bound of AT_y below the command reduces the truck as the table may, beside the entry put in place. -/
theorem State.reduceTruckByTable_if (s : State) (y : Truck) (e : Entry) (b : Nat) :
    (if b < s.pressure y then (s.setAir y e).reduceTruckByTable y b else s.setAir y e) =
      (s.setAir y e).setRecord (s.truckCutBy y (some b)) := by
  dsimp only [State.truckCutBy]
  by_cases hb : b < s.pressure y
  · rw [if_pos hb]
    by_cases hp : s.demand.emergency.any = true ∧ 0 < b ∧
        (s.blend.record.trucks.get y).target = s.params.pEmer
    · rw [if_neg fun h => h.2 hp]
      exact if_pos hp
    · rw [if_pos ⟨hb, hp⟩]
      exact if_neg hp
  · rw [if_neg hb, if_neg fun h => hb h.1]
    rfl

/-- A changed state brings the bound of the new one (R50, Table 3-6). -/
theorem electricChangeBound_of_ne {e e' : Entry} (h : e'.state ≠ e.state) :
    electricChangeBound e e' = electricBound e' := if_neg h

/-- A changed state brings the bound of the new one (R50, Table 3-6). -/
theorem airChangeBound_of_ne {e e' : Entry} {p : Nat} (h : e'.state ≠ e.state) :
    airChangeBound p e e' = airStateBound p e' := by
  refine (if_neg h).trans ?_
  unfold airStateBound
  cases e'.state <;> rfl

/-- A re-derivation of EA_k is the derived entry and the cut that its change of state calls for (R49, R50). -/
theorem State.rederiveElectric_eq (s : State) (k : Axle) {e old : Entry} (h : e.state = old.state) :
    s.rederiveElectric k e = (s.setElectric k e.rederived).setRecord
      (s.axleCutBy k ((electricChangeBound old e.rederived).map fun b => (b, .state))) := by
  by_cases hs : e.derive = e.state
  · rw [show electricChangeBound old e.rederived = none from if_pos (hs.trans h)]
    exact if_pos hs
  · rw [electricChangeBound_of_ne fun hc => hs (hc.trans h.symm)]
    refine (if_neg hs).trans ?_
    split
    next b hb =>
      rw [show electricBound e.rederived = some b from hb]
      exact State.reduceAxle_if _ _ _ _ _
    next hb =>
      rw [show electricBound e.rederived = none from hb]
      rfl

/-- A re-derivation of AT_y is the derived entry and the cut that its change of state calls for (R49, R50, R52). -/
theorem State.rederiveAir_eq (s : State) (y : Truck) {e old : Entry} (h : e.state = old.state) :
    s.rederiveAir y e = (s.setAir y e.rederived).setRecord
      (s.truckCutBy y (airChangeBound s.params.pServiceMax old e.rederived)) := by
  by_cases hs : e.derive = e.state
  · rw [show airChangeBound s.params.pServiceMax old e.rederived = none from if_pos (hs.trans h)]
    exact if_pos hs
  · rw [airChangeBound_of_ne fun hc => hs (hc.trans h.symm)]
    refine (if_neg hs).trans ?_
    split
    next b hb =>
      rw [show airStateBound s.params.pServiceMax e.rederived = some b from hb]
      exact State.reduceTruckByTable_if _ _ _ _
    next hb =>
      rw [show airStateBound s.params.pServiceMax e.rederived = none from hb]
      rfl

/-- A write that changes EA_k is the written entry and the cut that the write calls for (R47, R49 to R51). -/
theorem State.writeElectric_eq {s : State} {k : Axle} {f : Field} {v : Nat}
    (h : (s.res.electric.get k).write f v ≠ s.res.electric.get k) :
    s.writeElectric k f v =
      (s.setElectric k (s.writtenEntry (s.res.electric.get k) f v)).setRecord
        (s.axleCutBy k (electricWriteBound (s.res.electric.get k)
          (s.writtenEntry (s.res.electric.get k) f v) f)) := by
  refine (if_neg h).trans ?_
  cases f with
  | members | remapStand | remapLinkLoss | remapLockout => exact s.rederiveElectric_eq k rfl
  | ceiling => exact State.reduceAxle_if _ _ _ _ _
  | floor =>
    by_cases hs : (s.res.electric.get k).state = .floor
    · rw [show electricWriteBound (s.res.electric.get k) (s.writtenEntry (s.res.electric.get k) .floor v) .floor =
        some (v, .state) from if_pos hs]
      have written : ((s.res.electric.get k).write .floor v).state = .floor := hs
      simp only [written, true_and]
      exact State.reduceAxle_if _ _ _ _ _
    · rw [show electricWriteBound (s.res.electric.get k) (s.writtenEntry (s.res.electric.get k) .floor v) .floor =
        none from if_neg hs]
      exact if_neg fun hc => hs hc.1
  | riseStep | policy => rfl

/-- A write that changes AT_y is the written entry and the cut that the write calls for (R47, R49 to R52). -/
theorem State.writeAir_eq {s : State} {y : Truck} {f : Field} {v : Nat}
    (h : (s.res.air.get y).write f v ≠ s.res.air.get y) :
    s.writeAir y f v =
      (s.setAir y (s.writtenEntry (s.res.air.get y) f v)).setRecord
        (s.truckCutBy y (airWriteBound s.params.pServiceMax (s.res.air.get y)
          (s.writtenEntry (s.res.air.get y) f v) f)) := by
  refine (if_neg h).trans ?_
  cases f with
  | members | remapStand | remapLinkLoss | remapLockout => exact s.rederiveAir_eq y rfl
  | ceiling =>
    have bound : (s.setAir y ((s.res.air.get y).write .ceiling v)).airBound y = min v s.params.pServiceMax := by
      simp [State.airBound, State.setAir, Entry.write]
    dsimp only
    rw [bound]
    exact State.reduceTruckByTable_if _ _ _ _
  | floor | riseStep | policy => rfl

/-- A bound below command and target cuts the axle to it (R79). -/
theorem State.axleCutBy_cut {s : State} {k : Axle} {b : Nat} {why : Reason} (hc : b < s.command k)
    (ht : b < (s.blend.record.axles.get k).target) :
    s.axleCutBy k (some (b, why)) = { s.blend.record with
      revision := oneMore s.blend.record.revision
      axles := s.blend.record.axles.set k ⟨b, b, false, why⟩ } :=
  (if_pos hc).trans (congrArg (fun t : State => t.blend.record) ((s.reduceAxle_below k b why hc).1 ht))

/-- A write whose bound, if it has one, reaches the axle's command or target cuts nothing (R50, R51, R79). -/
theorem State.axleCutBy_kept {s : State} {k : Axle} {c : Option (Nat × Reason)}
    (h : ∀ b why, c = some (b, why) → s.command k ≤ b ∨ (s.blend.record.axles.get k).target ≤ b) :
    s.axleCutBy k c = s.blend.record := by
  cases c with
  | none => rfl
  | some x =>
    obtain ⟨b, why⟩ := x
    rcases h b why rfl with hc | ht
    · exact if_neg (Nat.not_lt.mpr hc)
    · have stands : s.blend.record.reduceAxle k b why = s.blend.record := if_neg (Nat.not_lt.mpr ht)
      rw [State.axleCutBy, stands, ite_self]

/-- A bound below command and target cuts the truck to it, but for a target at P_EMER in emergency (R52, R80). -/
theorem State.truckCutBy_cut {s : State} {y : Truck} {b : Nat} (hc : b < s.pressure y)
    (ht : b < (s.blend.record.trucks.get y).target)
    (he : ¬(s.demand.emergency.any = true ∧ 0 < b ∧ (s.blend.record.trucks.get y).target = s.params.pEmer)) :
    s.truckCutBy y (some b) = { s.blend.record with
      revision := oneMore s.blend.record.revision
      trucks := s.blend.record.trucks.set y
        { s.blend.record.trucks.get y with target := b, command := b, ramping := false } } := by
  refine (if_pos ⟨hc, he⟩).trans ((s.blend.record.reduceTruck_eq y b).trans ((if_pos ht).trans ?_))
  rw [TruckAlloc.cut_below hc]
  rfl

/-- A write whose bound, if it has one, reaches the truck's command or target or meets a target at P_EMER in
emergency cuts nothing (R50 to R52, R80). -/
theorem State.truckCutBy_kept {s : State} {y : Truck} {c : Option Nat}
    (h : ∀ b, c = some b → s.pressure y ≤ b ∨ (s.blend.record.trucks.get y).target ≤ b ∨
      (s.demand.emergency.any = true ∧ 0 < b ∧ (s.blend.record.trucks.get y).target = s.params.pEmer)) :
    s.truckCutBy y c = s.blend.record := by
  cases c with
  | none => rfl
  | some b =>
    rcases h b rfl with hc | ht | he
    · exact if_neg fun hp => Nat.not_lt.mpr hc hp.1
    · have stands : s.blend.record.reduceTruck y b = s.blend.record := if_neg (Nat.not_lt.mpr ht)
      rw [State.truckCutBy, stands, ite_self]
    · exact if_neg fun hp => hp.2 he

/-- What a write that changes EA_k leaves (R49 to R51, R54). -/
theorem State.writeElectric_written {u : State} {k : Axle} {f : Field} {v : Nat}
    (h : (u.res.electric.get k).write f v ≠ u.res.electric.get k) :
    ElectricWritten u (u.writeElectric k f v) k f v := by
  rw [State.writeElectric_eq h]
  have entry : (u.res.electric.set k (u.writtenEntry (u.res.electric.get k) f v)).get k =
      u.writtenEntry (u.res.electric.get k) f v := PerAxle.get_set_self _ _ _
  refine ⟨entry, ⟨fun j hj => PerAxle.get_set_ne _ _ _ _ hj, rfl⟩, fun b why hb hc ht => ?_, fun hk => ?_, rfl⟩
  · have bound := (congrArg (electricWriteBound _ · f) entry).symm.trans hb
    exact (congrArg (u.axleCutBy k) bound).trans (State.axleCutBy_cut hc ht)
  · exact State.axleCutBy_kept fun b why hb => hk b why ((congrArg (electricWriteBound _ · f) entry).trans hb)

/-- What a write that changes AT_y leaves (R49 to R52, R54). -/
theorem State.writeAir_written {u : State} {y : Truck} {f : Field} {v : Nat}
    (h : (u.res.air.get y).write f v ≠ u.res.air.get y) :
    AirWritten u (u.writeAir y f v) y f v := by
  rw [State.writeAir_eq h]
  have entry : (u.res.air.set y (u.writtenEntry (u.res.air.get y) f v)).get y =
      u.writtenEntry (u.res.air.get y) f v := PerTruck.get_set_self _ _ _
  refine ⟨entry, ⟨fun j hj => PerTruck.get_set_ne _ _ _ _ hj, rfl⟩, fun b hb hc ht he => ?_, fun hk => ?_, rfl⟩
  · have bound := (congrArg (airWriteBound _ _ · f) entry).symm.trans hb
    exact (congrArg (u.truckCutBy y) bound).trans (State.truckCutBy_cut hc ht he)
  · exact State.truckCutBy_kept fun b hb => hk b ((congrArg (airWriteBound _ _ · f) entry).trans hb)

/-- Settles O28: the rule of an accepted WRITE_RES is the write of its field. -/
theorem writeResEffect : Obligations.WriteResEffect := by
  refine fun r s u f h hf => ⟨fun k hx may fits changed => ?_, fun y hx may fits changed => ?_⟩
  · exact ⟨_, _, exec_writeRes_accepted h hx hf may fits, State.writeElectric_written changed⟩
  · exact ⟨_, _, exec_writeRes_accepted h hx hf may fits, State.writeAir_written changed⟩

end Sys2Proof.Machine
end

section
/-! PROOFS. The Tachometer Front End: what a sample makes of its input, and the edges that it hands over (R87 to
R89). -/

namespace Sys2Proof.Machine

/-! A sample of an input -/

/-- The first sample after a reset sets the level (R88). -/
theorem TachInput.sample_first {x : TachInput} (us : Stamp) (high : Bool) (hs : x.sampled = false) :
    x.sample us high = ({ x with level := high, sampled := true }, none) := by
  simp only [TachInput.sample, hs]

/-- A sample that agrees with the level, with no qualification in progress, changes nothing (R87). -/
theorem TachInput.sample_agreeing {x : TachInput} (us : Stamp) {high : Bool} (hs : x.sampled = true)
    (hq : x.qual = none) (hl : high = x.level) : x.sample us high = (x, none) := by
  simp only [TachInput.sample, hs, hq, if_pos hl]

/-- A sample that differs from the level begins a qualification (R87). -/
theorem TachInput.sample_begins {x : TachInput} (us : Stamp) {high : Bool} (hs : x.sampled = true)
    (hq : x.qual = none) (hl : high ≠ x.level) :
    x.sample us high = ({ x with qual := some ⟨us, none⟩ }, none) := by
  simp only [TachInput.sample, hs, hq, if_neg hl]

/-- The second sample of a qualification is held (R87). -/
theorem TachInput.sample_second {x : TachInput} (us : Stamp) (high : Bool) {time : Stamp}
    (hs : x.sampled = true) (hq : x.qual = some ⟨time, none⟩) :
    x.sample us high = ({ x with qual := some ⟨time, some high⟩ }, none) := by
  simp only [TachInput.sample, hs, hq]

/-- The noise count after the third sample of a qualification: only three unanimous samples leave it (R88,
Table 5-1). -/
def TachInput.noiseAfter (x : TachInput) (second third : Bool) : Nat :=
  if second ≠ x.level ∧ third ≠ x.level then x.noise
  else if x.noise < 255 then x.noise + 1 else x.noise

/-- The outcome of Table 5-1 counts noise by `noiseAfter`. -/
theorem TachInput.qualify_noise (x : TachInput) (second third : Bool) :
    (if (qualify (decide (second ≠ x.level)) (decide (third ≠ x.level))).noisy then x.addNoise else x) =
      { x with noise := x.noiseAfter second third } := by
  by_cases unanimous : second ≠ x.level ∧ third ≠ x.level
  · simp [qualify, TachInput.noiseAfter, unanimous]
  · rw [TachInput.noiseAfter, if_neg unanimous, if_pos]
    · rfl
    · simpa [qualify, -not_and, not_and_or] using unanimous

/-- The third sample rejects the qualification where only the first read the new level (Table 5-1). -/
theorem TachInput.sample_rejects {x : TachInput} (us : Stamp) {high second : Bool} {time : Stamp}
    (hs : x.sampled = true) (hq : x.qual = some ⟨time, some second⟩) (h₂ : second = x.level)
    (h₃ : high = x.level) :
    x.sample us high = ({ x with qual := none, noise := x.noiseAfter second high }, none) := by
  have rejected : (qualify (decide (second ≠ x.level)) (decide (high ≠ x.level))).accepted = false := by
    simp [qualify, h₂, h₃]
  simp only [TachInput.sample, hs, hq, x.qualify_noise, rejected, Bool.false_eq_true, if_false]

/-- The third sample accepts the edge where another sample read the new level; a rising edge is handed over
with the time of the first sample (R87, Table 5-1). -/
theorem TachInput.sample_accepts {x : TachInput} (us : Stamp) {high second : Bool} {time : Stamp}
    (hs : x.sampled = true) (hq : x.qual = some ⟨time, some second⟩)
    (h : second ≠ x.level ∨ high ≠ x.level) :
    x.sample us high =
      (⟨!x.level, true, none, x.noiseAfter second high⟩, if x.level then none else some time) := by
  have accepted : (qualify (decide (second ≠ x.level)) (decide (high ≠ x.level))).accepted = true := by
    simpa [qualify] using h
  simp only [TachInput.sample, hs, hq, x.qualify_noise, accepted, if_true]

/-! The handover of an edge -/

/-- The edge history keeps the last two stamps (R89). -/
theorem appendEdge_eq (h : List Stamp) (time : Stamp) :
    appendEdge h time = (h ++ [time]).drop ((h ++ [time]).length - 2) := by
  rw [appendEdge, List.length_append, List.length_singleton]

/-- The statements and the model mean the same by an axle after the handover of a rising edge (R89). -/
theorem SpeedAxle.edge_eq_withEdge (x : SpeedAxle) (time now : Stamp) (zeroTime : Nat) :
    x.edge time (some ⟨now, zeroTime⟩) = x.withEdge time now zeroTime := by
  simp only [SpeedAxle.edge, SpeedAxle.withEdge, ← appendEdge_eq]
  by_cases two : (appendEdge x.history time).length = 2 <;> simp [two]

/-- A sample that hands no edge over touches its input alone. -/
theorem State.tachSample_quiet {s : State} {k : Axle} {high : Bool} {y : TachInput}
    (h : (s.tach.get k).sample s.clock.us high = (y, none)) :
    s.tachSample k high = s.setTach (s.tach.set k y) := by
  simp only [State.tachSample, h]

/-- A sample that hands an edge over (R87, R89). -/
theorem State.tachSample_edge {s : State} {k : Axle} {high : Bool} {y : TachInput} {time : Stamp}
    (h : (s.tach.get k).sample s.clock.us high = (y, some time)) :
    s.tachSample k high = (s.setTach (s.tach.set k y)).setSpeed
      { s.speed with
        axles := s.speed.axles.set k ((s.speed.axles.get k).withEdge time s.now s.params.zeroTime) } := by
  simp only [State.tachSample, h, ← SpeedAxle.edge_eq_withEdge]
  rfl

/-- Either row of the table for samples takes the input's next sample (log 28). -/
theorem exec_tach {k : Axle} {high : Bool} {s : State} {c : Instr} (hp : s.phase = .running)
    (hc : c = .tachSample k high ∨ c = .tachQualification k high) :
    exec c s = .next (s.tachSample k high) := by
  have served : s.ifInService (fun u => u.tachSample k high) = s.tachSample k high := by
    simp [State.ifInService, State.inService, hp]
  rcases hc with rfl | rfl <;> exact congrArg _ served

/-- Settles O36: every case of a sample is one of the cases of the input it is taken from. -/
theorem tachSamples : Obligations.TachSamples := by
  intro k high s c hp hc
  rw [exec_tach hp hc]
  refine ⟨fun hs => ?_, fun hs => ⟨fun hq hl => ?_, fun hq hl => ?_, fun time hq => ?_,
    fun time second hq => ⟨fun h₂ h₃ => ?_, fun h hl => ?_, fun h hl => ?_⟩⟩⟩
  · exact congrArg _ (State.tachSample_quiet (TachInput.sample_first _ _ hs))
  · rw [State.tachSample_quiet (TachInput.sample_agreeing _ hs hq hl), PerAxle.set_get, State.setTach_self]
  · exact congrArg _ (State.tachSample_quiet (TachInput.sample_begins _ hs hq hl))
  · exact congrArg _ (State.tachSample_quiet (TachInput.sample_second _ _ hs hq))
  · exact congrArg _ (State.tachSample_quiet (TachInput.sample_rejects _ hs hq h₂ h₃))
  · have accepted := TachInput.sample_accepts s.clock.us hs hq h
    rw [hl] at accepted
    exact congrArg _ (State.tachSample_quiet accepted)
  · have accepted := TachInput.sample_accepts s.clock.us hs hq h
    rw [hl] at accepted
    exact congrArg _ (State.tachSample_edge accepted)

end Sys2Proof.Machine
end

section
/-! PROOFS. The speed of a window: what a window expiry forms, and the class, deceleration and TACH_FAULT that it
settles (R91, R92, R94, R95). -/

namespace Sys2Proof.Machine

/-! The speed that a window forms (R91) -/

/-- Two different times lie a span above 0 apart. -/
theorem elapsed_ne_zero {now start : Stamp} (h : now ≠ start) : elapsed now start ≠ 0 :=
  fun h0 => h (sub_eq_zero.mp (BitVec.eq_of_toNat_eq h0))

/-- The distance figure over a span above 0 (R91). -/
theorem speedOver_of_ne {now start : Stamp} (distance teeth : Nat) (h : now ≠ start) :
    speedOver distance teeth (elapsed now start) = distance / (teeth * elapsed now start) :=
  if_neg (elapsed_ne_zero h)

/-- All that a window expiry can form, by the first case of Table 5-3 that applies. -/
theorem SpeedAxle.form_cases (x : SpeedAxle) (circ teeth : Nat) (us : Stamp) :
    (x.openMark = true ∧ x.form circ teeth us = ⟨.openTach, 0⟩) ∨
    (x.openMark = false ∧ 2 ≤ x.edges ∧ x.form circ teeth us =
      ⟨.normal, speedOver ((x.edges - 1) * circ * 360000) teeth (elapsed x.lastEdge x.firstEdge)⟩) ∨
    (x.openMark = false ∧ ¬2 ≤ x.edges ∧ ∃ t₀ t₁, x.history = [t₀, t₁] ∧ x.form circ teeth us =
      ⟨.few, min (pairSpeed circ teeth t₀ t₁) (silenceBound circ teeth us t₁)⟩) ∨
    (x.openMark = false ∧ ¬2 ≤ x.edges ∧ x.history.length ≠ 2 ∧ x.form circ teeth us =
      ⟨if x.zeroDeclared then .zero else .unknown, 0⟩) := by
  unfold SpeedAxle.form
  cases x.openMark with
  | true => exact .inl ⟨rfl, rfl⟩
  | false =>
    refine .inr ?_
    by_cases many : 2 ≤ x.edges
    · exact .inl ⟨rfl, many, if_pos many⟩
    · refine .inr ?_
      rw [if_neg Bool.false_ne_true, if_neg many]
      split
      next t₀ t₁ pair => exact .inl ⟨rfl, many, t₀, t₁, pair, rfl⟩
      next other =>
        refine .inr ⟨rfl, many, fun two => ?_, (apply_ite (Formed.mk · 0) _ _ _).symm⟩
        obtain ⟨t₀, t₁, pair⟩ := List.length_eq_two.mp two
        exact other t₀ t₁ pair

/-- The case that a window expiry forms is the first of Table 5-3 that applies. -/
theorem SpeedAxle.form_case (x : SpeedAxle) (circ teeth : Nat) (us : Stamp) :
    (x.form circ teeth us).case =
      if x.openMark then .openTach else if 2 ≤ x.edges then .normal
      else if x.history.length = 2 then .few else if x.zeroDeclared then .zero else .unknown := by
  rcases x.form_cases circ teeth us with ⟨mark, e⟩ | ⟨mark, many, e⟩ | ⟨mark, few, t₀, t₁, pair, e⟩ |
    ⟨mark, few, short, e⟩
  · simp [e, mark]
  · simp [e, mark, many]
  · simp [e, mark, few, pair]
  · simp [e, mark, few, short]

/-- What axle `k`'s window expiry forms in the state `s` (R91). -/
def State.formed (s : State) (k : Axle) : Formed :=
  (s.speed.axles.get k).form (s.params.circ.get k) s.params.teeth s.clock.us

/-- The speed of case 2 (Table 5-3). -/
theorem State.formed_normal {s : State} {k : Axle} (h : (s.formed k).case = .normal)
    (span : (s.speed.axles.get k).lastEdge ≠ (s.speed.axles.get k).firstEdge) :
    (s.formed k).speed = s.toothSpeed k ((s.speed.axles.get k).edges - 1)
      ((s.speed.axles.get k).lastEdge - (s.speed.axles.get k).firstEdge).toNat := by
  unfold State.formed at h ⊢
  rcases (s.speed.axles.get k).form_cases (s.params.circ.get k) s.params.teeth s.clock.us with
    ⟨_, e⟩ | ⟨_, _, e⟩ | ⟨_, _, _, _, _, e⟩ | ⟨_, _, _, e⟩ <;> rw [e] at h ⊢
  · cases h
  · exact speedOver_of_ne _ _ span
  · cases h
  · dsimp only at h
    split at h <;> cases h

/-- The speed of case 3: the lesser of the pair speed and the silence bound (Table 5-3). -/
theorem State.formed_few {s : State} {k : Axle} {t₀ t₁ : Stamp} (h : (s.formed k).case = .few)
    (pair : (s.speed.axles.get k).history = [t₀, t₁]) (span : t₁ ≠ t₀) :
    (s.formed k).speed =
      min (s.toothSpeed k 1 (t₁ - t₀).toNat) (s.toothSpeed k 1 (max 1 (s.clock.us - t₁).toNat)) := by
  unfold State.formed at h ⊢
  rcases (s.speed.axles.get k).form_cases (s.params.circ.get k) s.params.teeth s.clock.us with
    ⟨_, e⟩ | ⟨_, _, e⟩ | ⟨_, _, u₀, u₁, pair', e⟩ | ⟨_, _, _, e⟩ <;> rw [e] at h ⊢
  · cases h
  · cases h
  · obtain ⟨rfl, rfl⟩ : u₀ = t₀ ∧ u₁ = t₁ := by simpa using pair'.symm.trans pair
    simp only [pairSpeed, silenceBound, speedOver_of_ne _ _ span, State.toothSpeed, one_mul]
    rfl
  · dsimp only at h
    split at h <;> cases h

/-- The speed of the other cases is 0 (Table 5-3). -/
theorem State.formed_zero {s : State} {k : Axle}
    (h : (s.formed k).case = .openTach ∨ (s.formed k).case = .zero ∨ (s.formed k).case = .unknown) :
    (s.formed k).speed = 0 := by
  unfold State.formed at h ⊢
  rcases (s.speed.axles.get k).form_cases (s.params.circ.get k) s.params.teeth s.clock.us with
    ⟨_, e⟩ | ⟨_, _, e⟩ | ⟨_, _, _, _, _, e⟩ | ⟨_, _, _, e⟩ <;> rw [e] at h ⊢
  · simp at h
  · simp at h

/-! Class, deceleration and TACH_FAULT of a window (R92, R94, R95) -/

/-- The class settled for a window (R92). -/
theorem settledCls_eq (f : Formed) (noise limit : Nat) :
    settledCls f noise limit =
      if limit < noise then .fault
      else match f.case with
        | .openTach => .fault
        | .unknown => .absent
        | .normal | .few | .zero => if 16000 < f.speed then .clamped else .valid := by
  obtain ⟨case, v⟩ := f
  cases case <;> simp [settledCls, SpeedCase.cls]

/-- The deceleration between two VALID speeds some µs apart (R94). -/
theorem SpeedAxle.decelOf_valid {x : SpeedAxle} {us t : Stamp} (v : Nat) (ht : x.prevTime = some t)
    (hp : x.prevCls = .valid) (span : us ≠ t) :
    x.decelOf v .valid us = max (-32768) (min 32767
      (((x.prevSpeed : Int) - v) * 1000000 / ((us - t).toNat : Int))) := by
  simp only [SpeedAxle.decelOf, ht, hp, and_self, if_true, if_neg (elapsed_ne_zero span)]
  rfl

/-- Without a VALID speed at this and the previous expiry there is no deceleration (R94). -/
theorem SpeedAxle.decelOf_eq_zero {x : SpeedAxle} {c : Cls} (v : Nat) (us : Stamp)
    (h : x.prevTime = none ∨ c ≠ .valid ∨ x.prevCls ≠ .valid) : x.decelOf v c us = 0 := by
  unfold SpeedAxle.decelOf
  split
  next t ht =>
    refine if_neg fun ⟨hc, hp⟩ => ?_
    simp [ht, hc, hp] at h
  next => rfl

/-- The class of axle `k`'s speed at its window expiry (R92). -/
def State.windowCls (s : State) (k : Axle) : Cls :=
  settledCls (s.formed k) (s.tach.get k).noise s.params.noiseLimit

/-- Axle `k` after steps 1 to 5 of its window expiry (R95). -/
def State.windowAxle (s : State) (k : Axle) : SpeedAxle :=
  (s.speed.axles.get k).expire (settledSpeed (s.formed k) (s.windowCls k)) (s.windowCls k) s.clock.us
    (some ⟨s.now, s.params.window⟩)

/-- The state after steps 1 to 5 but for TACH_FAULT: the noise count taken and the axle settled (R95). -/
def State.windowed (s : State) (k : Axle) : State :=
  (s.setTach (s.tach.set k { s.tach.get k with noise := 0 })).setSpeedAxle k (s.windowAxle k)

/-- Steps 1 to 5 of a window expiry in the terms above (R92, R95). -/
theorem State.windowSpeed_eq (s : State) (k : Axle) :
    s.windowSpeed k = ((s.formed k).case,
      if s.windowCls k = .fault ∧ (s.speed.axles.get k).cls ≠ .fault then
        (s.windowed k).occur .tach (axleNo k)
      else s.windowed k) := rfl

/-- The axle read after a replacement is the new one. -/
theorem State.setSpeedAxle_get (s : State) (k : Axle) (x : SpeedAxle) :
    (s.setSpeedAxle k x).speed.axles.get k = x := PerAxle.get_set_self _ _ _

/-- The axle that steps 1 to 5 leave. -/
theorem State.windowSpeed_axle (s : State) (k : Axle) :
    (s.windowSpeed k).2.speed.axles.get k = s.windowAxle k := by
  have axle : (s.windowed k).speed.axles.get k = s.windowAxle k := State.setSpeedAxle_get _ _ _
  rw [State.windowSpeed_eq]
  dsimp only
  split
  · rw [(State.occur_raised (s.windowed k) .tach (axleNo k)).same]
    exact axle
  · exact axle

/-- Settles O38: the figures of the axle are those that its window forms, and the exception comes last. -/
theorem speedAtWindow : Obligations.SpeedAtWindow := by
  intro s k
  dsimp only
  rw [State.windowSpeed_axle]
  refine ⟨(s.speed.axles.get k).form_case _ _ _, ⟨(s.formed k).speed, State.formed_normal,
      fun t₀ t₁ => State.formed_few, State.formed_zero, rfl, settledCls_eq _ _ _⟩, fun t ht hc hp span => ?_,
    SpeedAxle.decelOf_eq_zero _ _, rfl, fun enters => ?_, fun stays => ?_⟩
  · have cls : s.windowCls k = .valid := hc
    have decel := SpeedAxle.decelOf_valid (settledSpeed (s.formed k) (s.windowCls k)) ht hp span
    rw [← cls] at decel
    exact decel
  · have raises : (s.windowSpeed k).2 = (s.windowed k).occur .tach (axleNo k) := if_pos enters
    rw [raises]
    exact State.occur_raised _ _ _
  · exact if_neg fun enters => stays.elim (· enters.1) (enters.2 ·)

end Sys2Proof.Machine
end

section
/-! PROOFS. V_ref: the candidate, and an update with and without a usable ground speed (R96 to R98). -/

namespace Sys2Proof.Machine

/-- The statements and the model mean the same by a reference candidate (R97). -/
theorem State.isCandidate_iff (s : State) (k : Axle) : s.isCandidate k = true ↔ s.reference k := by
  simp [State.isCandidate, State.reference]

/-- Folding on from a speed gives the greatest of that speed and those that follow. -/
theorem State.candidate_foldl (s : State) (ks : List Axle) (v : Nat) :
    ks.foldl (fun m k =>
      match m with
      | none => some (s.speed.axles.get k).speed
      | some v => some (max v (s.speed.axles.get k).speed)) (some v) =
    some ((ks.map fun k => (s.speed.axles.get k).speed).foldl max v) := by
  induction ks generalizing v with
  | nil => rfl
  | cons k ks ih => exact ih _

/-- The candidate is the greatest speed of the reference candidates, where there is one (R97). -/
theorem State.candidate_eq_max? (s : State) :
    s.candidate = ((allAxles.filter s.isCandidate).map fun k => (s.speed.axles.get k).speed).max? := by
  unfold State.candidate
  cases allAxles.filter s.isCandidate with
  | nil => rfl
  | cons k ks => exact s.candidate_foldl ks _

/-- A reference axle that no other surpasses gives the candidate (R97). -/
theorem State.candidate_of_greatest {s : State} {k : Axle} (hk : s.reference k)
    (greatest : ∀ j, s.reference j → (s.speed.axles.get j).speed ≤ (s.speed.axles.get k).speed) :
    s.candidate = some (s.speed.axles.get k).speed := by
  rw [State.candidate_eq_max?, List.max?_eq_some_iff]
  refine ⟨List.mem_map_of_mem (List.mem_filter.mpr ⟨mem_allAxles k, (s.isCandidate_iff k).mpr hk⟩), ?_⟩
  intro v hv
  obtain ⟨j, hj, rfl⟩ := List.mem_map.mp hv
  exact greatest j ((s.isCandidate_iff j).mp (List.mem_filter.mp hj).2)

/-- Without a reference axle there is no candidate (R97). -/
theorem State.candidate_of_none {s : State} (h : ∀ k, ¬s.reference k) : s.candidate = none := by
  have empty : allAxles.filter s.isCandidate = [] :=
    List.filter_eq_nil_iff.mpr fun k _ hk => h k ((s.isCandidate_iff k).mp hk)
  rw [State.candidate_eq_max?, empty]
  rfl

/-- A ground speed that is VALID or CLAMPED is V_ref (R96). -/
theorem State.updateVref_ground {s : State} (h : s.posted.gs.cls = .valid ∨ s.posted.gs.cls = .clamped) :
    s.updateVref = s.setSpeed { s.speed with
      vref := s.posted.gs.last.getD 0, firstUpdate := false, vrefTime := s.now } := by
  obtain ⟨_, _, _, value⟩ := s.posted.gs.substituted.1 h
  simp only [State.updateVref, value]

/-- A ground speed of any other class gives V_ref no value (R10, R97). -/
theorem PostedItem.groundValue_eq_none {x : PostedItem} (h : ¬(x.cls = .valid ∨ x.cls = .clamped)) :
    x.groundValue = none := by
  obtain ⟨_, stale, _, _, bad⟩ := x.substituted
  cases hc : x.cls with
  | valid => exact absurd (.inl hc) h
  | clamped => exact absurd (.inr hc) h
  | stale => exact (stale hc).2.2.2
  | fault => exact (bad (.inl hc)).2.2
  | absent => exact (bad (.inr hc)).2.2

/-- V_ref from the axles: the candidate as it is at the first update, and within rise and decay from then on
(R97, R98). -/
theorem State.updateVref_axles {s : State} (h : ¬(s.posted.gs.cls = .valid ∨ s.posted.gs.cls = .clamped)) :
    s.updateVref = s.setSpeed { s.speed with
      vref := if s.speed.firstUpdate then s.candidate.getD 0
        else boundedVref s.speed.vref (s.params.decay * elapsed s.now s.speed.vrefTime / 1000)
          (s.params.rise * elapsed s.now s.speed.vrefTime / 1000) s.candidate
      firstUpdate := s.speed.firstUpdate && s.candidate.isNone
      vrefTime := s.now } := by
  simp only [State.updateVref, PostedItem.groundValue_eq_none h]
  cases first : s.speed.firstUpdate <;> simp

/-- Settles O39: by whether the ground speed is usable, and by the greatest reference axle. -/
theorem referenceSpeed : Obligations.ReferenceSpeed := by
  intro s
  refine ⟨?_, fun ground => ?_, fun axles k hk greatest => ?_, fun axles noAxle => ?_⟩
  · by_cases ground : s.posted.gs.cls = .valid ∨ s.posted.gs.cls = .clamped
    · rw [State.updateVref_ground ground]
      rfl
    · rw [State.updateVref_axles ground]
      rfl
  · rw [State.updateVref_ground ground]
    exact ⟨rfl, rfl⟩
  · rw [State.updateVref_axles axles, State.candidate_of_greatest hk greatest]
    exact ⟨Bool.and_false _, rfl⟩
  · rw [State.updateVref_axles axles, State.candidate_of_none noAxle]
    exact ⟨Bool.and_true _, rfl⟩

end Sys2Proof.Machine
end

section
/-! PROOFS. The Speed Unit's timers: how a window expiry governs the open-tach and standstill timers, and the
expiries (R90, R93, R95, R99, R100). -/

namespace Sys2Proof.Machine

/-! The open-tach timer (R93) -/

/-- Governing the open-tach timer sets that timer alone: it starts or goes on while a silent axle meets a moving
reference, and stops otherwise (R93). -/
theorem State.governOpen_eq (s : State) (k : Axle) (c : SpeedCase) :
    s.governOpen k c = s.setSpeedAxle k { s.speed.axles.get k with
      openTimer :=
        if (c = .few ∨ c = .zero) ∧ (s.speed.axles.get k).speed = 0 ∧ s.params.openSpeed ≤ s.speed.vref ∧
          (s.speed.axles.get k).openMark = false then
          if (s.speed.axles.get k).openTimer = none then some ⟨s.now, s.params.openTime⟩
          else (s.speed.axles.get k).openTimer
        else none } := by
  unfold State.governOpen
  dsimp only
  split
  · cases running : (s.speed.axles.get k).openTimer with
    | none => rfl
    | some t =>
      have kept : s.setSpeedAxle k (s.speed.axles.get k) = s := speedBank.write_read s k
      refine kept.symm.trans (congrArg _ ?_)
      rw [if_neg (Option.some_ne_none t), ← running]
  · rfl

/-! Standstill (R99, R100) -/

/-- An axle turns where its speed is VALID and above 0 (R99). -/
theorem State.turning_iff (s : State) (k : Axle) :
    s.turning k = true ↔ (s.speed.axles.get k).cls = .valid ∧ 0 < (s.speed.axles.get k).speed := by
  simp [State.turning, State.validAxle]

/-- The model looks at all six axles for one that turns (R100). -/
theorem State.any_turning_iff (s : State) : allAxles.any s.turning = true ↔
    ∃ k, (s.speed.axles.get k).cls = .valid ∧ 0 < (s.speed.axles.get k).speed := by
  rw [List.any_eq_true]
  exact exists_congr fun k => (and_iff_right (mem_allAxles k)).trans (s.turning_iff k)

/-- The statements and the model mean the same by the rest condition (R99). -/
theorem State.atRest_iff (s : State) : s.atRest = true ↔ s.restCondition := by
  have silent : allAxles.any s.turning = false ↔
      ∀ k, (s.speed.axles.get k).cls = .valid → (s.speed.axles.get k).speed = 0 := by
    rw [← Bool.not_eq_true, State.any_turning_iff]
    simp only [not_exists, not_and, Nat.not_lt, Nat.le_zero]
  simp only [State.atRest, Bool.and_eq_true, Bool.not_eq_true', decide_eq_true_eq, silent, and_assoc]
  rfl

/-- At rest the standstill timer runs unless the flag is set (R99). -/
theorem State.governStill_rest {s : State} (h : s.restCondition) :
    s.governStill = if s.speed.standstill || s.speed.still.isSome then s
      else s.setSpeed { s.speed with still := some ⟨s.now, s.params.stillTime⟩ } :=
  if_pos (s.atRest_iff.mpr h)

/-- Away from rest the standstill timer is stopped, and a turning axle clears the flag, with the mode
(R99, R100). -/
theorem State.governStill_moving {s : State} (h : ¬s.restCondition) :
    s.governStill = if s.speed.standstill && allAxles.any s.turning then
        (s.setSpeed { s.speed with standstill := false, still := none }).evaluateMode
      else s.setSpeed { s.speed with still := none } :=
  if_neg (mt s.atRest_iff.mp h)

/-- Settles O40: each timer is governed by its one condition. -/
theorem openTachAndStandstill : Obligations.OpenTachAndStandstill := by
  refine ⟨fun s k c => ?_, fun s => ⟨fun rest flag timer => ?_, fun rest still => ?_, fun moving flag turns => ?_,
    fun moving stays => ?_⟩⟩
  · dsimp only
    rw [State.governOpen_eq, State.setSpeedAxle_get]
    exact ⟨rfl, fun runs => if_pos runs, fun idle => if_neg idle, rfl⟩
  · simp [State.governStill_rest rest, flag, timer]
  · rw [State.governStill_rest rest, if_pos]
    simpa [Option.isSome_iff_ne_none] using still
  · rw [State.governStill_moving moving, flag, s.any_turning_iff.mpr turns]
    exact State.evaluateMode_settled _
  · rw [State.governStill_moving moving, if_neg]
    rw [Bool.and_eq_true, State.any_turning_iff]
    exact fun ⟨flag, turns⟩ => stays.elim (fun clear => Bool.false_ne_true (clear.symm.trans flag)) (· turns)

/-! The expiries (R90, R93, R95, R99) -/

/-- A window expiry while its timer runs takes the nine steps in order (R95, R106). -/
theorem State.windowExpiry_running {s : State} {k : Axle} (h : (s.speed.axles.get k).window.isSome = true) :
    s.windowExpiry k =
      ((((s.windowSpeed k).2.updateVref).governOpen k (s.windowSpeed k).1).governStill).evaluate k := by
  obtain ⟨x, hx⟩ := Option.isSome_iff_exists.mp h
  simp only [State.windowExpiry, hx]

/-- A zero expiry while its timer runs (R90). -/
theorem State.zeroExpiry_running {s : State} {k : Axle} (h : (s.speed.axles.get k).zero.isSome = true) :
    s.zeroExpiry k = s.setSpeedAxle k
      { s.speed.axles.get k with zero := none, history := [], zeroDeclared := true } := by
  have zeroed : s.zeroExpiry k = s.setSpeedAxle k (s.speed.axles.get k).zeroed := zeroExpiry_expires k s
  rw [zeroed, SpeedAxle.zeroed, if_pos h]

/-- An open-tach expiry while its timer runs is an occurrence of TACH_FAULT where the axle enters FAULT
(R92, R93). -/
theorem State.openTachExpiry_running {s : State} {k : Axle}
    (h : (s.speed.axles.get k).openTimer.isSome = true) :
    let b := s.setSpeedAxle k { s.speed.axles.get k with
      openTimer := none, openMark := true, history := [], speed := 0, cls := .fault }
    s.openTachExpiry k = if (s.speed.axles.get k).cls = .fault then b else b.occur .tach (axleNo k) := by
  let x := s.speed.axles.get k
  have opened : s.openTachExpiry k =
      if x.openTimer.isSome && decide (x.cls ≠ .fault) then (s.setSpeedAxle k x.opened).occur .tach (axleNo k)
      else s.setSpeedAxle k x.opened := openTachExpiry_expires k s
  have axle : x.opened = { x with
      openTimer := none, openMark := true, history := [], speed := 0, cls := .fault } := if_pos h
  rw [opened, axle, show x.openTimer.isSome = true from h]
  simp only [Bool.true_and, decide_eq_true_eq, ite_not]
  rfl

/-- Settles O37: a window expiry that is due is the nine steps. -/
theorem windowExpirySteps : Obligations.WindowExpirySteps := by
  intro k s hp
  have due : s.due (.windowExpiry k) = s.runOver (s.speed.axles.get k).window := s.passed_eq_runOver _
  refine ⟨fun ho => ?_, fun hn => ?_⟩
  · exact (next_expire_due _ hp (due.trans ho)).trans
      (congrArg _ (State.windowExpiry_running (State.isSome_of_runOver ho)))
  · exact next_expire_not_due _ (due.trans (Bool.not_eq_true _ ▸ hn))

/-- Settles O41: each expiry that is due is its timer's own effect. -/
theorem speedTimerExpiries : Obligations.SpeedTimerExpiries := by
  intro s hp
  refine ⟨fun k => ?_, ?_⟩
  · have zero : s.due (.zeroTimerExpiry k) = s.runOver (s.speed.axles.get k).zero := s.passed_eq_runOver _
    have opened : s.due (.openTachTimerExpiry k) = s.runOver (s.speed.axles.get k).openTimer :=
      s.passed_eq_runOver _
    refine ⟨fun ho => ?_, fun hn => ?_, fun ho => ?_, fun hn => ?_⟩
    · exact (next_expire_due _ hp (zero.trans ho)).trans
        (congrArg _ (State.zeroExpiry_running (State.isSome_of_runOver ho)))
    · exact next_expire_not_due _ (zero.trans (Bool.not_eq_true _ ▸ hn))
    · have happens : exec (.openTachTimerExpiry k) s = .next (s.openTachExpiry k) :=
        next_expire_due _ hp (opened.trans ho)
      rw [happens, State.openTachExpiry_running (State.isSome_of_runOver ho)]
      exact ⟨fun already => congrArg _ (if_pos already),
        fun enters => ⟨_, congrArg _ (if_neg enters), State.occur_raised _ _ _⟩⟩
    · exact next_expire_not_due _ (opened.trans (Bool.not_eq_true _ ▸ hn))
  · have still : s.due .standstillTimerExpiry = s.runOver s.speed.still := s.passed_eq_runOver _
    refine ⟨fun ho => ?_, fun hn => ?_⟩
    · exact ⟨_, (next_expire_due _ hp (still.trans ho)).trans
        (congrArg _ (s.stillExpiry_running (State.isSome_of_runOver ho))), State.evaluateMode_settled _⟩
    · exact next_expire_not_due _ (still.trans (Bool.not_eq_true _ ▸ hn))

end Sys2Proof.Machine
end

section
/-! PROOFS. The transitions of the slide states: what an evaluation makes of its axle, the rows of Table 6-2 for
each present state, and the axle that each row leaves (R105 to R116). -/

namespace Sys2Proof.Machine

/-! The evaluated axle (R106) -/

/-- The comparison of an evaluation of axle `k` (R107). -/
def State.comparison (s : State) (k : Axle) : Comparison :=
  comparisonOf (s.speed.axles.get k).cls (s.speed.axles.get k).speed s.speed.vref s.params.vMin s.speed.standstill

/-- What steps 1 to 5 of an evaluation make of axle `k` (R106). -/
def State.judged (s : State) (k : Axle) : Judged :=
  (s.slide.axles.get k).judge s.now s.params (s.comparison k) (s.speed.axles.get k).cls
    (s.speed.axles.get k).decel (s.command k)

/-- The triggers and events of an evaluation leave the Slide Unit. -/
theorem State.announce_slide (s : State) (k : Axle) (j : Judged) : (s.announce k j).slide = s.slide := by
  refine inAnyOrder_keeps (fun u => u.slide = s.slide) (fun _ _ h => h) _ (fun f hf u hu => ?_) s rfl
  rcases List.mem_append.mp hf with hf | hf
  all_goals
    split at hf
    · rw [List.mem_singleton.mp hf]
      exact hu
    · exact absurd hf List.not_mem_nil

theorem State.limitCut_slide (s : State) (k : Axle) (n : Nat) : (s.limitCut k n).slide = s.slide := by
  obtain ⟨b, h⟩ := s.limitCut_frame k n
  rw [h, State.setBlend_slide]

theorem State.actionCut_slide (s : State) (t : Truck) (a : Action) : (s.actionCut t a).slide = s.slide := by
  obtain ⟨b, h⟩ := s.actionCut_frame t a
  rw [h, State.setBlend_slide]

theorem State.refreshLockout_slide (s : State) (k : Axle) : (s.refreshLockout k).slide = s.slide := by
  obtain ⟨r, b, x, h⟩ := s.refreshLockout_frame k
  rw [h]
  rfl

/-- An evaluation replaces its own axle, and no other, by what steps 1 to 5 make of it (R106). -/
theorem State.evaluate_axles (s : State) (k : Axle) :
    (s.evaluate k).slide.axles = s.slide.axles.set k (s.judged k).axle := by
  unfold State.evaluate
  extract_lets x v t c j s₁ old s₂
  have announced : s₁.slide.axles = s.slide.axles.set k (s.judged k).axle :=
    congrArg SlideUnit.axles (State.announce_slide _ k j)
  have rederived : s₂.slide.axles = s.slide.axles.set k (s.judged k).axle := by
    rw [← announced]
    by_cases h : j.axle.state = x.state
    · rw [show s₂ = s₁ from if_pos h]
    · rw [show s₂ = s₁.rederiveAction t from if_neg h, State.rederiveAction_axles]
  split
  · refine inAnyOrder_keeps (·.slide.axles = s.slide.axles.set k (s.judged k).axle) (fun _ _ h => h) _
      (fun f hf u hu => ?_) s₂ rederived
    simp only [List.mem_cons, List.not_mem_nil, or_false] at hf
    rcases hf with rfl | rfl | rfl
    · rwa [State.limitCut_slide]
    · rwa [State.actionCut_slide]
    · rwa [State.refreshLockout_slide]
  · rw [State.actionCut_slide, State.limitCut_slide, rederived]

/-! What a verdict leaves (R111, R112, R114 to R116) -/

/-- Pruning drops the entries that are too old, up to the first that is not (R116). -/
theorem pruned_eq_dropWhile (now : Stamp) (w : Nat) (h : List Stamp) :
    pruned now w h = h.dropWhile fun t => decide (w * 1000 < (now - t).toNat) := by
  induction h with
  | nil => rfl
  | cons t ts ih => simp only [pruned, elapsed, List.dropWhile_cons, decide_eq_true_eq, ih]

/-- What Table 6-2 makes of an evaluation of axle `k` in `s`. -/
def State.verdict (s : State) (k : Axle) : Verdict :=
  let x := s.slide.axles.get k
  verdictOf s.params x (s.comparison k) (s.speed.axles.get k).cls (s.speed.axles.get k).decel
    (elapsed s.now x.entryTime) (elapsed s.now x.recoverStart) (s.command k)

/-- Axle `k` left as `y` by an evaluation with the verdict given: its history, state and limit, and the recover
start time where RECOVERING is entered or goes on. -/
def State.Follows (s : State) (k : Axle) (y : SlideAxle) : Verdict → Prop
  | .stay limit => s.Goes k y (s.slide.axles.get k).state limit
  | .recover restart =>
    y.history = s.keptHistory k ∧ y.state = (s.slide.axles.get k).state ∧
      y.recoverStart = (if restart = true then s.now else (s.slide.axles.get k).recoverStart) ∧
      ∀ last, (s.slide.axles.get k).lastEval = some last →
        y.limit = min 1000 ((s.slide.axles.get k).limit + s.params.recoverRate * (s.now - last).toNat / 100)
  | .go dest limit => s.Goes k y dest limit ∧ (dest = .recovering → y.recoverStart = s.now)
  | .onset => s.Onset k y
  | .lock => s.Goes k y .lockout 0

/-- The evaluated axle before its verdict is applied: pruned, with the comparison and the time recorded (steps 1,
2 and 5 of R106). -/
def State.recorded (s : State) (k : Axle) : SlideAxle :=
  { s.slide.axles.get k with
    history := s.keptHistory k, comparison := some (s.comparison k), lastEval := some s.now }

/-- Axle `k` with a verdict applied (R111, R112, R114, R115). -/
def State.applied (s : State) (k : Axle) : Verdict → SlideAxle
  | .stay limit => { s.recorded k with limit := limit }
  | .recover restart =>
    { s.recorded k with
      limit := raisedLimit (s.slide.axles.get k).limit s.params.recoverRate
        (((s.slide.axles.get k).lastEval.map (elapsed s.now)).getD 0)
      recoverStart := if restart = true then s.now else (s.slide.axles.get k).recoverStart }
  | .go dest limit => (s.recorded k).enter s.now dest limit
  | .onset =>
    let grown := { s.recorded k with history := s.keptHistory k ++ [s.now] }
    if s.params.lockCount ≤ (s.keptHistory k).length + 1 then grown.enter s.now .lockout 0
    else grown.enter s.now .sliding (s.command k * s.params.cutFactor / 1000)
  | .lock => (s.recorded k).enter s.now .lockout 0

/-- Steps 1 to 5 of an evaluation apply the verdict of Table 6-2 to the axle (R106). -/
theorem State.judged_axle (s : State) (k : Axle) : (s.judged k).axle = s.applied k (s.verdict k) := by
  have kept : pruned s.now s.params.lockWindow (s.slide.axles.get k).history = s.keptHistory k :=
    pruned_eq_dropWhile _ _ _
  have verdict : verdictOf s.params (s.slide.axles.get k) (s.comparison k) (s.speed.axles.get k).cls
    (s.speed.axles.get k).decel (elapsed s.now (s.slide.axles.get k).entryTime)
    (elapsed s.now (s.slide.axles.get k).recoverStart) (s.command k) = s.verdict k := rfl
  simp only [State.judged, SlideAxle.judge, kept, verdict]
  cases s.verdict k with
  | stay limit => rfl
  | recover restart =>
    simp only [State.applied]
    cases (s.slide.axles.get k).lastEval <;> rfl
  | go dest limit => rfl
  | onset =>
    simp only [State.applied, SlideAxle.onset, List.length_append, List.length_singleton]
    split <;> rfl
  | lock => rfl

/-- An evaluation leaves its axle with the verdict of Table 6-2 applied (R106). -/
theorem State.evaluate_axle (s : State) (k : Axle) :
    (s.evaluate k).slide.axles.get k = s.applied k (s.verdict k) := by
  rw [State.evaluate_axles, PerAxle.get_set_self, State.judged_axle]

/-- The comparison and the time of the evaluation are recorded, whatever the verdict (R106). -/
theorem State.applied_records (s : State) (k : Axle) (v : Verdict) :
    (s.applied k v).lastEval = some s.now ∧ (s.applied k v).comparison = some (s.comparison k) := by
  cases v with
  | onset =>
    unfold State.applied
    dsimp only
    split <;> exact ⟨rfl, rfl⟩
  | _ => exact ⟨rfl, rfl⟩

/-- The axle with a verdict applied is as that verdict says. -/
theorem State.applied_follows (s : State) (k : Axle) (v : Verdict) : s.Follows k (s.applied k v) v := by
  cases v with
  | stay limit => exact ⟨rfl, rfl, rfl⟩
  | recover restart =>
    refine ⟨rfl, rfl, rfl, fun last hl => ?_⟩
    simp only [State.applied, hl]
    rfl
  | go dest limit => exact ⟨⟨rfl, rfl, rfl⟩, fun h => if_pos h⟩
  | onset =>
    unfold State.Follows State.Onset State.applied
    dsimp only
    split <;> exact ⟨rfl, rfl, rfl⟩
  | lock => exact ⟨rfl, rfl, rfl⟩

/-! The rows of Table 6-2 (R107 to R113) -/

/-- A speed of another class than VALID gives an UNORDERED comparison (R107). -/
theorem State.comparison_unordered {s : State} {k : Axle} (h : (s.speed.axles.get k).cls ≠ .valid) :
    s.comparison k = .unordered :=
  if_pos h

/-- Below V_MIN and at standstill the comparison of a VALID speed is INHIBITED (R107). -/
theorem State.comparison_inhibited {s : State} {k : Axle} (h : (s.speed.axles.get k).cls = .valid)
    (still : s.speed.vref < s.params.vMin ∨ s.speed.standstill = true) : s.comparison k = .inhibited :=
  (if_neg (not_not_intro h)).trans (if_pos still)

/-- Every other VALID speed is compared by its creep (R107). -/
theorem State.comparison_creep {s : State} {k : Axle} (h : (s.speed.axles.get k).cls = .valid)
    (moving : ¬(s.speed.vref < s.params.vMin ∨ s.speed.standstill = true)) :
    s.comparison k = .creep (s.creepNow k) :=
  (if_neg (not_not_intro h)).trans (if_neg moving)

/-- LOCKOUT has no exit by evaluation (Table 6-2). -/
theorem State.verdict_lockout {s : State} {k : Axle} (hx : (s.slide.axles.get k).state = .lockout) :
    s.verdict k = .stay 0 := by
  simp only [State.verdict, verdictOf, hx]

/-- An UNORDERED comparison takes an axle outside LOCKOUT to INDETERMINATE where the speed is FAULT or CLAMPED and
the axle is not there yet, with its limit held (R108). -/
theorem State.verdict_unordered {s : State} {k : Axle} (hc : s.comparison k = .unordered)
    (hx : (s.slide.axles.get k).state ≠ .lockout) :
    s.verdict k =
      if ((s.speed.axles.get k).cls = .fault ∨ (s.speed.axles.get k).cls = .clamped) ∧
          (s.slide.axles.get k).state ≠ .indeterminate then
        .go .indeterminate (s.slide.axles.get k).limit
      else .stay (s.slide.axles.get k).limit := by
  cases state : (s.slide.axles.get k).state with
  | lockout => exact absurd state hx
  | _ => simp [State.verdict, verdictOf, unorderedVerdict, state, hc]

/-- An INHIBITED comparison brings an axle outside LOCKOUT to NORMAL, or leaves it there, with its limit lifted
(R109). -/
theorem State.verdict_inhibited {s : State} {k : Axle} (hc : s.comparison k = .inhibited)
    (hx : (s.slide.axles.get k).state ≠ .lockout) :
    s.verdict k = if (s.slide.axles.get k).state = .normal then .stay 1000 else .go .normal 1000 := by
  cases state : (s.slide.axles.get k).state with
  | lockout => exact absurd state hx
  | _ => simp [State.verdict, verdictOf, state, hc]

section
variable {s : State} {k : Axle} {c : Nat} (hc : s.comparison k = .creep c)
include hc

/-- From NORMAL to SUSPECT by creep or by deceleration (R110). -/
theorem State.verdict_normal (hx : (s.slide.axles.get k).state = .normal) :
    s.verdict k =
      if s.params.sSuspect ≤ c ∨ (s.params.aDet : Int) ≤ (s.speed.axles.get k).decel then
        .go .suspect (s.command k)
      else .stay (s.slide.axles.get k).limit := by
  simp only [State.verdict, verdictOf, hx, hc]

/-- From SUSPECT by an onset, which a creep that stays moderate for SUSPECT_MAX brings too, or to NORMAL (R110). -/
theorem State.verdict_suspect (hx : (s.slide.axles.get k).state = .suspect) :
    s.verdict k =
      if s.params.sSlide ≤ c ∨
          (s.params.suspectMax ≤ (s.now - (s.slide.axles.get k).entryTime).toNat ∧ s.params.sSuspect ≤ c) then
        .onset
      else if c < s.params.sRelease ∧ (s.speed.axles.get k).decel < s.params.aDet then .go .normal 1000
      else .stay (s.slide.axles.get k).limit := by
  simp only [State.verdict, verdictOf, hx, hc, ite_or]
  rfl

/-- From SLIDING to RECOVERING, or to LOCKOUT by SLIDE_MAX (R111). -/
theorem State.verdict_sliding (hx : (s.slide.axles.get k).state = .sliding) :
    s.verdict k =
      if c < s.params.sRelease then .go .recovering (s.slide.axles.get k).limit
      else if s.params.slideMax ≤ (s.now - (s.slide.axles.get k).entryTime).toNat then .lock
      else .stay (s.slide.axles.get k).limit := by
  simp only [State.verdict, verdictOf, hx, hc]
  rfl

/-- From RECOVERING by an onset, or to NORMAL after RECOVER_TIME; otherwise the recovery goes on (R112). -/
theorem State.verdict_recovering (hx : (s.slide.axles.get k).state = .recovering) :
    s.verdict k =
      if s.params.sSlide ≤ c then .onset
      else if c < s.params.sRelease ∧
          s.params.recoverTime ≤ (s.now - (s.slide.axles.get k).recoverStart).toNat then
        .go .normal 1000
      else .recover (decide (s.params.sRelease ≤ c)) := by
  simp only [State.verdict, verdictOf, hx, hc]
  rfl

/-- From INDETERMINATE to SUSPECT or NORMAL (R113). -/
theorem State.verdict_indeterminate (hx : (s.slide.axles.get k).state = .indeterminate) :
    s.verdict k = if s.params.sSuspect ≤ c then .go .suspect (s.command k) else .go .normal 1000 := by
  simp only [State.verdict, verdictOf, hx, hc]

end

/-! The entry time (R114) -/

/-- A verdict that changes the state changes it from `x` to another one. -/
def Verdict.Leaves (x : SlideState) : Verdict → Prop
  | .stay _ | .recover _ => True
  | .go dest _ => dest ≠ x
  | .onset => x ≠ .sliding ∧ x ≠ .lockout
  | .lock => x ≠ .lockout

/-- No row of Table 6-2 enters the state that it starts from. -/
theorem State.verdict_leaves (s : State) (k : Axle) : (s.verdict k).Leaves (s.slide.axles.get k).state := by
  by_cases locked : (s.slide.axles.get k).state = .lockout
  · rw [State.verdict_lockout locked]
    trivial
  cases hc : s.comparison k with
  | unordered =>
    rw [State.verdict_unordered hc locked]
    split
    · rename_i enters
      exact enters.2.symm
    · trivial
  | inhibited =>
    rw [State.verdict_inhibited hc locked]
    split
    · trivial
    · rename_i away
      exact Ne.symm away
  | creep c =>
    cases hx : (s.slide.axles.get k).state with
    | normal =>
      rw [State.verdict_normal hc hx]
      split_ifs <;> simp [Verdict.Leaves]
    | suspect =>
      rw [State.verdict_suspect hc hx]
      split_ifs <;> simp [Verdict.Leaves]
    | sliding =>
      rw [State.verdict_sliding hc hx]
      split_ifs <;> simp [Verdict.Leaves]
    | recovering =>
      rw [State.verdict_recovering hc hx]
      split_ifs <;> simp [Verdict.Leaves]
    | indeterminate =>
      rw [State.verdict_indeterminate hc hx]
      split_ifs <;> simp [Verdict.Leaves]
    | lockout => exact absurd hx locked

/-- The entry time is the evaluation's at a change of state, and stands otherwise (R114). -/
theorem State.applied_entryTime (s : State) (k : Axle) {v : Verdict} (h : v.Leaves (s.slide.axles.get k).state) :
    (s.applied k v).entryTime =
      if (s.applied k v).state = (s.slide.axles.get k).state then (s.slide.axles.get k).entryTime else s.now := by
  cases v with
  | stay limit => exact (if_pos rfl).symm
  | recover restart => exact (if_pos rfl).symm
  | go dest limit => exact (if_neg h).symm
  | onset =>
    obtain ⟨notSliding, notLockout⟩ := h
    unfold State.applied
    dsimp only
    split
    · exact (if_neg notLockout.symm).symm
    · exact (if_neg notSliding.symm).symm
  | lock => exact (if_neg (Ne.symm h)).symm

/-! The evaluation -/

/-- Settles O42: what the verdict of each row of Table 6-2 leaves, by comparison and present state. -/
theorem slideTransitions : Obligations.SlideTransitions := by
  intro s k
  obtain ⟨time, comparison⟩ := s.applied_records k (s.verdict k)
  have entry := s.applied_entryTime k (s.verdict_leaves k)
  have follows := s.applied_follows k (s.verdict k)
  rw [← State.evaluate_axle] at time comparison entry follows
  generalize (s.evaluate k).slide.axles.get k = y at time comparison entry follows
  refine ⟨time, comparison, entry, fun locked => ?_, fun unlocked unordered => ?_,
    fun unlocked valid inhibited => ?_, fun valid moving => ?_⟩
  · rw [State.verdict_lockout locked] at follows
    exact locked ▸ follows
  · rw [State.verdict_unordered (State.comparison_unordered unordered) unlocked] at follows
    split at follows
    · rename_i enters
      rw [if_pos enters.1]
      exact follows.1
    · rename_i remains
      have held : (if (s.speed.axles.get k).cls = .fault ∨ (s.speed.axles.get k).cls = .clamped then .indeterminate
          else (s.slide.axles.get k).state) = (s.slide.axles.get k).state :=
        ite_eq_right_iff.mpr fun faulty => (Classical.not_not.mp fun away => remains ⟨faulty, away⟩).symm
      rw [held]
      exact follows
  · rw [State.verdict_inhibited (State.comparison_inhibited valid inhibited) unlocked] at follows
    split at follows
    · rename_i normal
      exact normal ▸ follows
    · exact follows.1
  · have hc := State.comparison_creep valid moving
    refine ⟨fun hx => ?_, fun hx => ?_, fun hx => ?_, fun hx => ?_, fun hx => ?_⟩
    · simp only [State.verdict_normal hc hx, apply_ite (s.Follows k y)] at follows
      simpa [State.Follows, hx] using follows
    · simp only [State.verdict_suspect hc hx, apply_ite (s.Follows k y)] at follows
      simpa [State.Follows, hx] using follows
    · simp only [State.verdict_sliding hc hx, apply_ite (s.Follows k y)] at follows
      simpa [State.Follows, hx] using follows
    · simp only [State.verdict_recovering hc hx, apply_ite (s.Follows k y)] at follows
      simpa [State.Follows, hx] using follows
    · simp only [State.verdict_indeterminate hc hx, apply_ite (s.Follows k y)] at follows
      simpa [State.Follows, hx] using follows

end Sys2Proof.Machine
end

section
/-! PROOFS. The Incident Recorder's own operations: changes of the recorder and of Record Memory alone, where the
words of the slots and the retention area stand, and what the stores, reads, damaged slots and FREEZE leave. -/

namespace Sys2Proof.Machine

/-! Changes of the recorder and of Record Memory alone -/

/-- What occurrences make of the counters rests on the counters alone (R163). -/
theorem foldl_count_counters (es : List Nat) : ∀ s t : State, s.counters = t.counters →
    (es.foldl State.count s).counters = (es.foldl State.count t).counters := by
  induction es with
  | nil => exact fun _ _ h => h
  | cons e es ih => exact fun s t h => ih (s.count e) (t.count e) (by simp [State.count, h])

theorem RecorderOnly.eq {u t : State} {es : List Nat} (h : RecorderOnly u t es) :
    t = ((u.setInc t.inc).setMem t.mem).setCounters (es.foldl State.count u).counters := h

theorem RecorderOnly.refl (u : State) : RecorderOnly u u [] := rfl

theorem RecorderOnly.storeWord (u : State) (a : Nat) (d : Word) : RecorderOnly u (u.storeWord a d) [] := rfl

theorem RecorderOnly.setInc (u : State) (x : Recorder) : RecorderOnly u (u.setInc x) [] := rfl

theorem RecorderOnly.count (u : State) (n : Nat) : RecorderOnly u (u.count n) [n] := rfl

theorem RecorderOnly.trans {u v t : State} {es fs : List Nat} (h : RecorderOnly u v es) (g : RecorderOnly v t fs) :
    RecorderOnly u t (es ++ fs) := by
  have hc : v.counters = (es.foldl State.count u).counters :=
    (congrArg State.counters h.eq).trans rfl
  have hf := foldl_count_counters fs v _ hc
  calc t = ((v.setInc t.inc).setMem t.mem).setCounters (fs.foldl State.count v).counters := g
    _ = ((u.setInc t.inc).setMem t.mem).setCounters (fs.foldl State.count v).counters := by rw [h.eq]; rfl
    _ = _ := by rw [hf, List.foldl_append]

theorem RecorderOnly.phase {u t : State} {es : List Nat} (h : RecorderOnly u t es) : t.phase = u.phase :=
  (congrArg State.phase h.eq).trans rfl

theorem RecorderOnly.links {u t : State} {es : List Nat} (h : RecorderOnly u t es) : t.links = u.links :=
  (congrArg State.links h.eq).trans rfl

theorem RecorderOnly.params {u t : State} {es : List Nat} (h : RecorderOnly u t es) : t.params = u.params :=
  (congrArg State.params h.eq).trans rfl

theorem RecorderOnly.counters {u t : State} {es : List Nat} (h : RecorderOnly u t es) :
    t.counters = (es.foldl State.count u).counters :=
  (congrArg State.counters h.eq).trans rfl

theorem RecorderOnly.storeWords (ds : List Word) : ∀ (u : State) (a : Nat), RecorderOnly u (u.storeWords a ds) [] := by
  induction ds with
  | nil => exact fun u _ => .refl u
  | cons d ds ih => exact fun u a => (RecorderOnly.storeWord u a d).trans (ih _ _)

/-! Stores and reads -/

theorem State.storeWord_read (s : State) (a b : Nat) (d : Word) (h : s.mem.wf) :
    (s.storeWord a d).mem.read b = if b = a then protect d else s.mem.read b :=
  s.mem.read_write a b (protect d) h

@[simp] theorem State.storeWord_inc (s : State) (a : Nat) (d : Word) : (s.storeWord a d).inc = s.inc := rfl

@[simp] theorem State.storeWords_inc (ds : List Word) (s : State) (a : Nat) : (s.storeWords a ds).inc = s.inc := by
  obtain ⟨m, h⟩ := s.storeWords_frame ds a
  rw [h]
  rfl

@[simp] theorem State.count_inc (s : State) (n : Nat) : (s.count n).inc = s.inc := rfl

@[simp] theorem State.count_mem (s : State) (n : Nat) : (s.count n).mem = s.mem := rfl

@[simp] theorem State.readWords_inc (s : State) (as : List Nat) : (s.readWords as).2.inc = s.inc := by
  obtain ⟨m, c, h⟩ := s.readWords_frame as
  rw [h]
  rfl

theorem State.readWords_length (as : List Nat) : ∀ s : State, (s.readWords as).1.length = as.length := by
  induction as with
  | nil => exact fun _ => rfl
  | cons a as ih => exact fun s => congrArg (· + 1) (ih (s.readWord a).2)

/-! Addresses (R134, R152) -/

theorem slotNo_le (i : Slot) : slotNo i ≤ 7 := by cases i <;> decide

theorem slotOf_slotNo (i : Slot) : slotOf (slotNo i) = some i := by cases i <;> rfl

theorem slotNo_injective {i j : Slot} (h : slotNo i = slotNo j) : i = j :=
  Option.some.inj ((slotOf_slotNo i).symm.trans ((congrArg slotOf h).trans (slotOf_slotNo j)))

theorem slotAddr_eq (i : Slot) (w : Nat) : slotAddr i w = 1031 * slotNo i + w := by
  simp only [slotAddr, areaAddr, slotWords]
  omega

theorem snapAddr_eq (i : Slot) (n w : Nat) : snapAddr i n w = 1031 * slotNo i + 7 + 16 * n + w := by
  simp only [snapAddr, slotAddr_eq]
  omega

theorem retentionAddr_eq (w : Nat) : retentionAddr w = 8248 + w := by
  simp only [retentionAddr, areaAddr, slotWords]

/-! Damaged slots (R156) -/

theorem State.capturingIn_iff (s : State) (i : Slot) :
    s.capturingIn i = true ↔ ∃ c, s.inc.capture = some c ∧ c.slot = i := by
  unfold State.capturingIn
  cases s.inc.capture <;> simp

/-- The recorder after a slot has become DAMAGED (R156). -/
theorem State.damageWith_inc (s : State) (i : Slot) (six : Checked) :
    (s.damageWith i six).inc = s.inc.dropSlot i (s.capturingIn i) := rfl

theorem State.damageWith_only (s : State) (i : Slot) (six : Checked) : RecorderOnly s (s.damageWith i six) [] := rfl

theorem State.damageWith_damaged (s : State) (i : Slot) (six : Checked) (h : s.mem.wf) :
    SlotDamaged s (s.damageWith i six) i six where
  only := s.damageWith_only i six
  recorder := by
    rw [State.damageWith_inc, Recorder.dropSlot, State.capturingIn]
    cases s.inc.capture <;> simp
  mem := fun a => s.storeWord_read _ a _ h

/-! FREEZE (R143) -/

theorem State.enterFreeze_only (s : State) : RecorderOnly s s.enterFreeze [] := by
  unfold State.enterFreeze
  split <;> rfl

theorem State.enterFreeze_inc (s : State) : s.enterFreeze.inc = { s.inc with freeze := true } := by
  unfold State.enterFreeze
  split
  · rename_i h
    rw [← h]
  · rfl

theorem State.enterFreeze_wf (s : State) (h : s.mem.wf) : s.enterFreeze.mem.wf := by
  unfold State.enterFreeze
  split
  · exact h
  · exact State.storeWord_wf _ _ _ h

theorem State.enterFreeze_read (s : State) (a : Nat) (h : s.mem.wf) :
    s.enterFreeze.mem.read a =
      if a = retentionAddr 2 ∧ s.inc.freeze = false then protect 1 else s.mem.read a := by
  unfold State.enterFreeze
  split
  · rename_i hf
    simp [hf]
  · rename_i hf
    exact (State.storeWord_read _ _ _ _ h).trans (by simp [hf])

/-- FREEZE is entered where the cause of a taken trigger is EMERGENCY (R143). -/
def State.freezeFor (s : State) (c : Cause) : State := if c = .emergency then s.enterFreeze else s

theorem State.freezeFor_only (s : State) (c : Cause) : RecorderOnly s (s.freezeFor c) [] := by
  unfold State.freezeFor
  split
  · exact s.enterFreeze_only
  · exact .refl s

theorem State.freezeFor_inc (s : State) (c : Cause) :
    (s.freezeFor c).inc = { s.inc with freeze := s.inc.freeze || decide (c = .emergency) } := by
  unfold State.freezeFor
  split
  · rename_i h
    simp [State.enterFreeze_inc, h]
  · rename_i h
    simp [h]

theorem State.freezeFor_wf (s : State) (c : Cause) (h : s.mem.wf) : (s.freezeFor c).mem.wf := by
  unfold State.freezeFor
  split
  · exact s.enterFreeze_wf h
  · exact h

theorem State.freezeFor_read (s : State) (c : Cause) (a : Nat) (h : s.mem.wf) :
    (s.freezeFor c).mem.read a =
      if a = retentionAddr 2 ∧ c = .emergency ∧ s.inc.freeze = false then protect 1 else s.mem.read a := by
  unfold State.freezeFor
  split
  · rename_i hc
    simp [s.enterFreeze_read a h, hc]
  · rename_i hc
    simp [hc]

end Sys2Proof.Machine
end

section
/-! PROOFS. The slot chosen for a new incident, and what openings and losses leave of the recorder (R135 to R138). -/

namespace Sys2Proof.Machine

/-! The chosen slot (R136) -/

theorem mem_allSlots (i : Slot) : i ∈ allSlots := by cases i <;> decide

/-- The slot found in a state is the lowest-numbered one in it. -/
theorem State.lowestIn_eq_some {s : State} {x : SlotState} {i : Slot} (h : s.lowestIn x = some i) :
    s.slotState i = x ∧ ∀ j, slotNo j < slotNo i → s.slotState j ≠ x := by
  obtain ⟨hi, before, after, hs, hb⟩ := List.find?_eq_some_iff_append.mp h
  have rising : allSlots.Pairwise (slotNo · < slotNo ·) := by decide
  rw [hs, List.pairwise_append, List.pairwise_cons] at rising
  refine ⟨of_decide_eq_true hi, fun j hj hx => ?_⟩
  have hm := mem_allSlots j
  rw [hs, List.mem_append, List.mem_cons] at hm
  rcases hm with hm | rfl | hm
  · simpa [hx] using hb j hm
  · exact absurd hj (lt_irrefl _)
  · exact absurd (rising.2.1.1 j hm) (Nat.lt_asymm hj)

theorem State.lowestIn_eq_none {s : State} {x : SlotState} (h : s.lowestIn x = none) (j : Slot) :
    s.slotState j ≠ x := by
  simpa using List.find?_eq_none.mp h j (mem_allSlots j)

/-- Of some slots, the READ one with the lowest sequence number; none where none is READ. -/
def State.OldestOf (s : State) (is : List Slot) : Option Slot → Prop
  | some b => s.slotState b = .read ∧ ∀ j ∈ is, s.slotState j = .read → s.slotSeq b ≤ s.slotSeq j
  | none => ∀ j ∈ is, s.slotState j ≠ .read

theorem State.olderRead_oldestOf (s : State) {is : List Slot} {best : Option Slot} (i : Slot)
    (h : s.OldestOf is best) : s.OldestOf (i :: is) (s.olderRead best i) := by
  unfold State.olderRead
  split
  · rename_i hi
    cases best with
    | none => exact ⟨hi, List.forall_mem_cons.mpr ⟨fun _ => BitVec.le_refl _, fun j hj hr => absurd hr (h j hj)⟩⟩
    | some b =>
      obtain ⟨hb, least⟩ := h
      dsimp only
      split
      · rename_i hlt
        refine ⟨hi, List.forall_mem_cons.mpr ⟨fun _ => BitVec.le_refl _, fun j hj hr => ?_⟩⟩
        have := least j hj hr
        bv_omega
      · rename_i hge
        exact ⟨hb, List.forall_mem_cons.mpr ⟨fun _ => BitVec.not_lt.mp hge, least⟩⟩
  · rename_i hi
    cases best with
    | none => exact List.forall_mem_cons.mpr ⟨hi, h⟩
    | some b => exact ⟨h.1, List.forall_mem_cons.mpr ⟨fun hr => absurd hr hi, h.2⟩⟩

theorem State.oldestRead_oldestOf (s : State) : s.OldestOf allSlots.reverse s.oldestRead := by
  have fold : ∀ (is seen : List Slot) (best : Option Slot), s.OldestOf seen best →
      s.OldestOf (is.reverse ++ seen) (is.foldl s.olderRead best) := by
    intro is
    induction is with
    | nil => exact fun _ _ h => h
    | cons i is ih =>
      intro seen best h
      rw [List.reverse_cons, List.append_assoc]
      exact ih _ _ (s.olderRead_oldestOf i h)
  have h := fold allSlots [] none (by simp [State.OldestOf])
  rwa [List.append_nil] at h

theorem State.oldestRead_eq_some {s : State} {i : Slot} (h : s.oldestRead = some i) :
    s.slotState i = .read ∧ ∀ j, s.slotState j = .read → s.slotSeq i ≤ s.slotSeq j := by
  have ho := s.oldestRead_oldestOf
  rw [h] at ho
  exact ⟨ho.1, fun j => ho.2 j (List.mem_reverse.mpr (mem_allSlots j))⟩

theorem State.oldestRead_eq_none {s : State} (h : s.oldestRead = none) (j : Slot) : s.slotState j ≠ .read := by
  have ho := s.oldestRead_oldestOf
  rw [h] at ho
  exact ho j (List.mem_reverse.mpr (mem_allSlots j))

/-- The slot that the recorder takes is the one that R136 chooses. -/
theorem State.chooseSlot_eq_some {s : State} {i : Slot} (h : s.chooseSlot = some i) : Chosen s i := by
  unfold State.chooseSlot at h
  split at h
  · exact .inl (State.lowestIn_eq_some ((‹s.lowestIn .free = _›).trans h))
  · rename_i hfree
    split at h
    · cases h
    · rename_i hf
      have freeze := Bool.not_eq_true _ ▸ hf
      split at h
      · obtain ⟨hi, lowest⟩ := State.lowestIn_eq_some ((‹s.lowestIn .damaged = _›).trans h)
        exact .inr (.inl ⟨State.lowestIn_eq_none hfree, freeze, hi, lowest⟩)
      · rename_i hdamaged
        obtain ⟨hi, oldest⟩ := State.oldestRead_eq_some h
        exact .inr (.inr ⟨fun j => ⟨State.lowestIn_eq_none hfree j, State.lowestIn_eq_none hdamaged j⟩, freeze, hi,
          oldest⟩)

theorem State.chooseSlot_eq_none {s : State} (h : s.chooseSlot = none) : NoneChosen s := by
  unfold State.chooseSlot at h
  split at h
  · cases h
  · rename_i hfree
    refine fun j => ⟨State.lowestIn_eq_none hfree j, fun hf => ?_⟩
    rw [if_neg (by simp [hf])] at h
    split at h
    · cases h
    · exact ⟨State.lowestIn_eq_none ‹_› j, State.oldestRead_eq_none h j⟩

theorem Chosen.not_none {s : State} {i : Slot} (h : Chosen s i) : ¬NoneChosen s := by
  intro hn
  obtain ⟨free, rest⟩ := hn i
  rcases h with ⟨hi, _⟩ | ⟨_, hf, hi, _⟩ | ⟨_, hf, hi, _⟩
  · exact free hi
  · exact (rest hf).1 hi
  · exact (rest hf).2 hi

theorem Chosen.not_unread {s : State} {i : Slot} (h : Chosen s i) : s.slotState i ≠ .unread := by
  rcases h with ⟨hi, _⟩ | ⟨_, _, hi, _⟩ | ⟨_, _, hi, _⟩ <;> rw [hi] <;> decide

/-! Openings (R137) -/

/-- The pre count of an opening: the snapshots of the ring that it takes (R137). -/
def State.preTaken (s : State) : Nat := min s.params.preCount s.inc.ring.length

/-- The snapshot words that an opening writes (R137). -/
def State.preWords (s : State) : List Word := (latest s.inc.ring s.preTaken).flatMap Snapshot.words

/-- The snapshots and the header of a new incident in slot `i` are written and its number consumed (R137). -/
def State.incidentWritten (s : State) (i : Slot) (c : Cause) (detail : Byte) : State :=
  (s.consumeSeq.storeWords (snapAddr i 0 0) s.preWords).storeWords (slotAddr i 0)
    (openHeader s.inc.nextSeq s.now c detail s.preTaken)

/-- The same with the slot's working copy and the capture context as R137 gives them, and event 12. -/
def State.opening (s : State) (i : Slot) (c : Cause) (detail : Byte) : State :=
  ((s.incidentWritten i c detail).setInc
    { (s.incidentWritten i c detail).inc with
      slots := (s.incidentWritten i c detail).inc.slots.set i ⟨.capturing, some s.inc.nextSeq⟩
      capture := some ⟨i, 0, s.params.postCount⟩ }).count 12

/-- An incident is opened, FREEZE entered where its cause is EMERGENCY, and it is complete at once where no snapshot
is to follow (R137, R143). -/
theorem State.openSlot_eq (s : State) (i : Slot) (c : Cause) (detail : Byte) :
    s.openSlot i c detail =
      if s.params.postCount = 0 then ((s.opening i c detail).freezeFor c).completeAtOnce i
      else (s.opening i c detail).freezeFor c := rfl

theorem State.opening_only (s : State) (i : Slot) (c : Cause) (detail : Byte) :
    RecorderOnly s (s.opening i c detail) [12] :=
  ((((RecorderOnly.setInc s _).trans (.storeWord _ _ _)).trans
    ((RecorderOnly.storeWords _ _ _).trans (.storeWords _ _ _))).trans (.setInc _ _)).trans (.count _ 12)

theorem State.opening_inc (s : State) (i : Slot) (c : Cause) (detail : Byte) :
    (s.opening i c detail).inc = { s.inc with
      nextSeq := s.inc.nextSeq + 1
      slots := s.inc.slots.set i ⟨.capturing, some s.inc.nextSeq⟩
      capture := some ⟨i, 0, s.params.postCount⟩ } := by
  simp [State.opening, State.incidentWritten, State.consumeSeq]

theorem State.opening_mem (s : State) (i : Slot) (c : Cause) (detail : Byte) :
    (s.opening i c detail).mem = (s.incidentWritten i c detail).mem := by
  rw [State.opening, State.count_mem, State.setInc_mem]

theorem State.completeAtOnce_only (s : State) (i : Slot) : RecorderOnly s (s.completeAtOnce i) [] := rfl

theorem State.completeAtOnce_inc (s : State) (i : Slot) :
    (s.completeAtOnce i).inc = { s.inc with
      slots := s.inc.slots.set i { s.inc.slots.get i with state := .unread }
      capture := none } := rfl

theorem State.openSlot_only (s : State) (i : Slot) (c : Cause) (detail : Byte) :
    RecorderOnly s (s.openSlot i c detail) [12] := by
  have h := (s.opening_only i c detail).trans (State.freezeFor_only _ c)
  rw [State.openSlot_eq]
  split
  · exact h.trans (State.completeAtOnce_only _ i)
  · exact h

/-- The recorder after an opening (R137, R143). -/
theorem State.openSlot_inc (s : State) (i : Slot) (c : Cause) (detail : Byte) :
    (s.openSlot i c detail).inc = { s.inc with
      nextSeq := s.inc.nextSeq + 1
      slots := s.inc.slots.set i
        ⟨if s.params.postCount = 0 then .unread else .capturing, some s.inc.nextSeq⟩
      capture := if s.params.postCount = 0 then none else some ⟨i, 0, s.params.postCount⟩
      freeze := s.inc.freeze || decide (c = .emergency) } := by
  rw [State.openSlot_eq]
  split
  · simp [State.completeAtOnce_inc, State.freezeFor_inc, State.opening_inc]
  · simp [State.freezeFor_inc, State.opening_inc]

/-! What an opening writes (R134, R137) -/

/-- What writes of words leave at every address, by the word's place in the list. -/
theorem State.storeWords_getD (s : State) (a : Nat) (ds : List Word) (b : Nat) (h : s.mem.wf) :
    (s.storeWords a ds).mem.read b =
      if a ≤ b ∧ b < a + ds.length then protect (ds.getD (b - a) 0) else s.mem.read b := by
  rw [State.storeWords_read _ _ _ _ h]
  split
  · rw [List.getD_eq_getElem _ _ (by omega)]
  · rfl

theorem Snapshot.words_length (x : Snapshot) : x.words.length = 16 := rfl

theorem flatMap_words_length (xs : List Snapshot) : (xs.flatMap Snapshot.words).length = 16 * xs.length := by
  simp [List.length_flatMap, Snapshot.words_length, Nat.mul_comm]

/-- Word `w` of the `n`-th of some snapshots written one after another (R134). -/
theorem flatMap_words_getD (xs : List Snapshot) : ∀ (n w : Nat) (x : Snapshot), xs[n]? = some x → w < 16 →
    (xs.flatMap Snapshot.words).getD (16 * n + w) 0 = x.words.getD w 0 := by
  induction xs with
  | nil => exact fun n w x h => nomatch h
  | cons y ys ih =>
    intro n w x h hw
    rw [List.flatMap_cons]
    cases n with
    | zero =>
      cases h
      rw [List.getD_append _ _ _ _ (by simpa [Snapshot.words_length] using hw), Nat.mul_zero, Nat.zero_add]
    | succ n =>
      rw [List.getD_append_right _ _ _ _ (by simp only [Snapshot.words_length]; omega), Snapshot.words_length,
        show 16 * (n + 1) + w - 16 = 16 * n + w by omega]
      exact ih n w x h hw

theorem State.preWords_length (s : State) : s.preWords.length = 16 * s.preTaken := by
  have : s.preTaken ≤ s.inc.ring.length := Nat.min_le_right _ _
  simp only [State.preWords, flatMap_words_length, latest, List.length_drop]
  omega

theorem State.preWords_getD (s : State) {n w : Nat} (hn : n < s.preTaken) (hw : w < 16) :
    ∃ x, s.inc.ring[s.inc.ring.length - s.preTaken + n]? = some x ∧
      s.preWords.getD (16 * n + w) 0 = x.words.getD w 0 := by
  have hle : s.preTaken ≤ s.inc.ring.length := Nat.min_le_right _ _
  have hlt : s.inc.ring.length - s.preTaken + n < s.inc.ring.length := by omega
  refine ⟨_, List.getElem?_eq_getElem hlt, flatMap_words_getD _ n w _ ?_ hw⟩
  rw [latest, List.getElem?_drop, List.getElem?_eq_getElem hlt]

theorem State.consumeSeq_wf (s : State) (h : s.mem.wf) : s.consumeSeq.mem.wf := State.storeWord_wf _ _ _ h

theorem State.consumeSeq_read (s : State) (a : Nat) (h : s.mem.wf) :
    s.consumeSeq.mem.read a = if a = retentionAddr 1 then protect (s.inc.nextSeq + 1) else s.mem.read a :=
  State.storeWord_read _ _ _ _ h

/-- What an opening leaves at every address before FREEZE and a completion. -/
theorem State.opening_read (s : State) (i : Slot) (c : Cause) (detail : Byte) (h : s.mem.wf) (a : Nat) :
    (s.opening i c detail).mem.read a =
      if slotAddr i 0 ≤ a ∧ a < slotAddr i 7 then
        protect ((openHeader s.inc.nextSeq s.now c detail s.preTaken).getD (a - slotAddr i 0) 0)
      else if slotAddr i 7 ≤ a ∧ a < slotAddr i 7 + 16 * s.preTaken then
        protect (s.preWords.getD (a - slotAddr i 7) 0)
      else if a = retentionAddr 1 then protect (s.inc.nextSeq + 1)
      else s.mem.read a := by
  have h₁ := s.consumeSeq_wf h
  have h₂ := State.storeWords_wf s.preWords s.consumeSeq (snapAddr i 0 0) h₁
  have length : (openHeader s.inc.nextSeq s.now c detail s.preTaken).length = 7 := rfl
  rw [State.opening_mem, State.incidentWritten, State.storeWords_getD _ _ _ _ h₂, State.storeWords_getD _ _ _ _ h₁,
    State.preWords_length, length, s.consumeSeq_read a h]
  simp only [slotAddr_eq, snapAddr_eq, Nat.mul_zero, Nat.add_zero]

theorem State.opening_wf (s : State) (i : Slot) (c : Cause) (detail : Byte) (h : s.mem.wf) :
    (s.opening i c detail).mem.wf := by
  rw [State.opening_mem]
  exact State.storeWords_wf _ _ _ (State.storeWords_wf _ _ _ (s.consumeSeq_wf h))

theorem State.openSlot_wf (s : State) (i : Slot) (c : Cause) (detail : Byte) (h : s.mem.wf) :
    (s.openSlot i c detail).mem.wf := by
  have hf := State.freezeFor_wf _ c (s.opening_wf i c detail h)
  rw [State.openSlot_eq]
  split
  · exact State.storeWord_wf _ _ _ hf
  · exact hf

/-- What an opening leaves at every address (R137, R143). -/
theorem State.openSlot_read (s : State) (i : Slot) (c : Cause) (detail : Byte) (h : s.mem.wf) (a : Nat) :
    (s.openSlot i c detail).mem.read a =
      if s.params.postCount = 0 ∧ a = slotAddr i 6 then protect (stateWord .unread 0)
      else if a = retentionAddr 2 ∧ c = .emergency ∧ s.inc.freeze = false then protect 1
      else (s.opening i c detail).mem.read a := by
  have ho := s.opening_wf i c detail h
  have hf := State.freezeFor_read _ c a ho
  rw [State.opening_inc] at hf
  rw [State.openSlot_eq]
  split
  · rename_i hp
    refine (State.storeWord_read _ (slotAddr i 6) a _ (State.freezeFor_wf _ c ho)).trans ?_
    simp only [hp, true_and, hf]
  · rename_i hp
    simp only [hp, false_and, if_false, hf]

/-- An opening is what R137 and R143 say. -/
theorem State.openSlot_opened (s : State) (i : Slot) (c : Cause) (detail : Byte) (h : s.mem.wf)
    (hpre : s.params.preCount ≤ 32) : Opened s (s.openSlot i c detail) i c detail := by
  have hslot := slotNo_le i
  have pre : s.preTaken ≤ 32 := le_trans (Nat.min_le_left _ _) hpre
  have header : ∀ w < 7, (s.params.postCount = 0 → w ≠ 6) → (s.openSlot i c detail).mem.read (slotAddr i w) =
      protect ((openHeader s.inc.nextSeq s.now c detail s.preTaken).getD w 0) := by
    intro w hw h6
    rw [s.openSlot_read i c detail h, s.opening_read i c detail h]
    simp only [slotAddr_eq, retentionAddr_eq]
    rw [if_neg (fun e => h6 e.1 (by omega)), if_neg (by omega), if_pos (by omega)]
    congr 2
    omega
  refine ⟨s.openSlot_only i c detail, s.openSlot_inc i c detail, fun n hn w hw => ?_,
    ⟨header 0 (by decide) nofun, header 1 (by decide) nofun, header 2 (by decide) nofun, header 3 (by decide) nofun,
      header 4 (by decide) nofun, header 5 (by decide) nofun, ?_⟩, ⟨?_, ?_⟩, fun a h1 h2 ha => ?_⟩
  · obtain ⟨x, hx, hword⟩ := s.preWords_getD hn hw
    refine ⟨x, hx, ?_⟩
    have hn : n < s.preTaken := hn
    rw [s.openSlot_read i c detail h, s.opening_read i c detail h, ← hword]
    simp only [slotAddr_eq, snapAddr_eq, retentionAddr_eq]
    rw [if_neg (by omega), if_neg (by omega), if_neg (by omega), if_pos (by omega)]
    congr 2
    omega
  · split
    · rename_i hp
      rw [s.openSlot_read i c detail h, if_pos ⟨hp, rfl⟩]
      rfl
    · rename_i hp
      exact header 6 (by decide) fun e => absurd e hp
  · rw [s.openSlot_read i c detail h, s.opening_read i c detail h]
    simp only [slotAddr_eq, retentionAddr_eq]
    rw [if_neg (by omega), if_neg (by omega), if_neg (by omega), if_neg (by omega), if_pos trivial]
  · rw [s.openSlot_read i c detail h, s.opening_read i c detail h]
    simp only [slotAddr_eq, retentionAddr_eq, true_and]
    rw [if_neg (by omega)]
    split
    · rfl
    · rw [if_neg (by omega), if_neg (by omega), if_neg (by omega)]
  · have ha : a < slotAddr i 0 ∨ slotAddr i 7 + 16 * s.preTaken ≤ a := ha
    rw [s.openSlot_read i c detail h, s.opening_read i c detail h]
    simp only [slotAddr_eq] at ha ⊢
    rw [if_neg (by omega), if_neg (fun e => h2 e.1), if_neg (by omega), if_neg (by omega), if_neg h1]

/-! Losses (R138) -/

/-- The recorder's number is consumed, unless it is the last one (R135). -/
def State.numberTaken (s : State) : State := if s.inc.nextSeq = lastSeq then s else s.consumeSeq

theorem State.loseIncident_eq (s : State) :
    s.loseIncident = (s.numberTaken.setInc { s.numberTaken.inc with lost := true }).count 13 := rfl

theorem State.numberTaken_wf (s : State) (h : s.mem.wf) : s.numberTaken.mem.wf := by
  unfold State.numberTaken
  split
  · exact h
  · exact State.storeWord_wf _ _ _ h

theorem State.loseIncident_lost (s : State) (h : s.mem.wf) : IncidentLost s s.loseIncident := by
  rw [State.loseIncident_eq, State.numberTaken]
  by_cases hn : s.inc.nextSeq = lastSeq
  · have hn' : s.inc.nextSeq = 4294967295#32 := hn
    rw [if_pos hn]
    refine ⟨rfl, ?_, fun a => (if_neg fun e => e.1 hn).symm⟩
    rw [if_pos hn']
    rfl
  · have hn' : s.inc.nextSeq ≠ 4294967295#32 := hn
    rw [if_neg hn]
    refine ⟨rfl, ?_, fun a => (s.consumeSeq_read a h).trans ?_⟩
    · rw [if_neg hn']
      rfl
    · simp [hn']

end Sys2Proof.Machine
end

section
/-! PROOFS. The recorder takes a trigger, and a mark (O52; R131, R132, R140). -/

namespace Sys2Proof.Machine

/-! Merging (R140, R156) -/

theorem State.damage_wf (s : State) (i : Slot) (h : s.mem.wf) : (s.damage i).mem.wf :=
  State.storeWord_wf _ _ _ (s.readWord_wf _ h)

theorem State.damage_damaged (s : State) (i : Slot) (h : s.mem.wf) :
    SlotDamaged (s.readWord (slotAddr i 6)).2 (s.damage i) i (s.readWord (slotAddr i 6)).1 :=
  State.damageWith_damaged _ i _ (s.readWord_wf _ h)

theorem listsKind_iff (entries : List Half) (n : Nat) (c : Cause) :
    listsKind entries n c = true ↔ ∃ e ∈ entries.take n, (hi8 e).toNat = causeCode c := by
  simp only [listsKind, List.any_eq_true, decide_eq_true_eq]

/-- The cause lists of header words 2 and 3 after a trigger has joined them (R140). -/
def joinedCauses (ws : List Checked) (c : Cause) (detail : Byte) : List Half :=
  (causeEntries (dataAt ws 0) (dataAt ws 1)).set (hi16 (dataAt ws 2)).toNat (causeEntry c detail)

/-- Header words 2 to 4 after a trigger has joined the cause list (R140). -/
def joinedWords (ws : List Checked) (c : Cause) (detail : Byte) : List Word :=
  [join16 ((joinedCauses ws c detail).getD 0 0) ((joinedCauses ws c detail).getD 1 0),
    join16 ((joinedCauses ws c detail).getD 2 0) ((joinedCauses ws c detail).getD 3 0),
    wordOf ((hi16 (dataAt ws 2)).toNat + 1) (lo16 (dataAt ws 2)).toNat]

/-- A trigger joins the cause list of a slot whose words 2 to 4 read `ws` (R140, R143). -/
def State.causeJoined (v : State) (ws : List Checked) (i : Slot) (c : Cause) (detail : Byte) : State :=
  ((v.storeWords (slotAddr i 2) (joinedWords ws c detail)).count 14).freezeFor c

/-- A trigger is counted as a further one in a slot whose cause list is full (R140). -/
def State.causeCounted (v : State) (ws : List Checked) (i : Slot) : State :=
  (v.storeWord (slotAddr i 4) (wordOf (hi16 (dataAt ws 2)).toNat
    (if (lo16 (dataAt ws 2)).toNat < 255 then (lo16 (dataAt ws 2)).toNat + 1
      else (lo16 (dataAt ws 2)).toNat))).count 14

section
variable {s v : State} {ws : List Checked} {i : Slot} (c : Cause) (detail : Byte)
  (hr : s.readWords [slotAddr i 2, slotAddr i 3, slotAddr i 4] = (ws, v))
include hr

theorem State.merge_bad (bad : anyBad ws = true) :
    s.merge i c detail = (⟨6, slotNo i, lo16 (s.slotSeq i)⟩, v.damage i) := by
  simp only [State.merge, hr, bad, if_true]

theorem State.merge_listed (good : anyBad ws = false)
    (listed : listsKind (causeEntries (dataAt ws 0) (dataAt ws 1)) (hi16 (dataAt ws 2)).toNat c = true) :
    s.merge i c detail = (⟨4, slotNo i, lo16 (s.slotSeq i)⟩, v) := by
  simp only [State.merge, hr, good, listed, if_true, if_false, Bool.false_eq_true]

theorem State.merge_joined (good : anyBad ws = false)
    (new : listsKind (causeEntries (dataAt ws 0) (dataAt ws 1)) (hi16 (dataAt ws 2)).toNat c = false)
    (room : (hi16 (dataAt ws 2)).toNat < 4) :
    s.merge i c detail = (⟨2, slotNo i, lo16 (s.slotSeq i)⟩, v.causeJoined ws i c detail) := by
  simp only [State.merge, hr, good, new, room, if_true, if_false, Bool.false_eq_true]
  rfl

theorem State.merge_counted (good : anyBad ws = false)
    (new : listsKind (causeEntries (dataAt ws 0) (dataAt ws 1)) (hi16 (dataAt ws 2)).toNat c = false)
    (full : ¬(hi16 (dataAt ws 2)).toNat < 4) :
    s.merge i c detail = (⟨3, slotNo i, lo16 (s.slotSeq i)⟩, v.causeCounted ws i) := by
  simp only [State.merge, hr, good, new, full, if_false, Bool.false_eq_true]
  rfl

end

theorem State.causeJoined_only (v : State) (ws : List Checked) (i : Slot) (c : Cause) (detail : Byte) :
    RecorderOnly v (v.causeJoined ws i c detail) [14] :=
  ((RecorderOnly.storeWords _ v _).trans (.count _ 14)).trans (State.freezeFor_only _ c)

theorem State.causeJoined_inc (v : State) (ws : List Checked) (i : Slot) (c : Cause) (detail : Byte) :
    (v.causeJoined ws i c detail).inc = { v.inc with freeze := v.inc.freeze || decide (c = .emergency) } := by
  simp [State.causeJoined, State.freezeFor_inc]

theorem State.causeJoined_wf (v : State) (ws : List Checked) (i : Slot) (c : Cause) (detail : Byte) (h : v.mem.wf) :
    (v.causeJoined ws i c detail).mem.wf :=
  State.freezeFor_wf _ c (State.storeWords_wf _ _ _ h)

theorem State.causeJoined_read (v : State) (ws : List Checked) (i : Slot) (c : Cause) (detail : Byte) (h : v.mem.wf)
    (a : Nat) :
    (v.causeJoined ws i c detail).mem.read a =
      if a = slotAddr i 2 then
        protect (join16 ((joinedCauses ws c detail).getD 0 0) ((joinedCauses ws c detail).getD 1 0))
      else if a = slotAddr i 3 then
        protect (join16 ((joinedCauses ws c detail).getD 2 0) ((joinedCauses ws c detail).getD 3 0))
      else if a = slotAddr i 4 then
        protect (wordOf ((hi16 (dataAt ws 2)).toNat + 1) (lo16 (dataAt ws 2)).toNat)
      else if a = retentionAddr 2 ∧ c = .emergency ∧ v.inc.freeze = false then protect 1
      else v.mem.read a := by
  have hslot := slotNo_le i
  have length : (joinedWords ws c detail).length = 3 := rfl
  rw [State.causeJoined, State.freezeFor_read, State.count_mem, State.count_inc, State.storeWords_inc,
    State.storeWords_getD _ _ _ _ h, length]
  simp only [slotAddr_eq, retentionAddr_eq]
  by_cases h2 : a = 1031 * slotNo i + 2
  · rw [if_pos h2, if_neg (by omega), if_pos (by omega), h2, Nat.sub_self]
    rfl
  by_cases h3 : a = 1031 * slotNo i + 3
  · rw [if_neg h2, if_pos h3, if_neg (by omega), if_pos (by omega), h3, Nat.add_sub_add_left]
    rfl
  by_cases h4 : a = 1031 * slotNo i + 4
  · rw [if_neg h2, if_neg h3, if_pos h4, if_neg (by omega), if_pos (by omega), h4, Nat.add_sub_add_left]
    rfl
  · rw [if_neg h2, if_neg h3, if_neg h4, if_neg (show ¬(1031 * slotNo i + 2 ≤ a ∧ _) by omega)]
  rw [State.count_mem]
  exact State.storeWords_wf _ _ _ h

/-- What a merge comes to, by what the read of header words 2 to 4 finds (R140, R156). -/
theorem State.merge_cases (s : State) (i : Slot) (c : Cause) (detail : Byte) :
    ∃ ws v code t, s.readWords [slotAddr i 2, slotAddr i 3, slotAddr i 4] = (ws, v) ∧
      s.merge i c detail = (⟨code, slotNo i, lo16 (s.slotSeq i)⟩, t) ∧
      (t = v.damage i ∨ t = v ∨ t = v.causeJoined ws i c detail ∨ t = v.causeCounted ws i) := by
  rcases hr : s.readWords [slotAddr i 2, slotAddr i 3, slotAddr i 4] with ⟨ws, v⟩
  cases bad : anyBad ws with
  | true => exact ⟨ws, v, _, _, rfl, State.merge_bad c detail hr bad, .inl rfl⟩
  | false =>
    cases listed : listsKind (causeEntries (dataAt ws 0) (dataAt ws 1)) (hi16 (dataAt ws 2)).toNat c with
    | true => exact ⟨ws, v, _, _, rfl, State.merge_listed c detail hr bad listed, .inr (.inl rfl)⟩
    | false =>
      by_cases room : (hi16 (dataAt ws 2)).toNat < 4
      · exact ⟨ws, v, _, _, rfl, State.merge_joined c detail hr bad listed room, .inr (.inr (.inl rfl))⟩
      · exact ⟨ws, v, _, _, rfl, State.merge_counted c detail hr bad listed room, .inr (.inr (.inr rfl))⟩

/-- A merge answers with the capturing slot and its number (R132). -/
theorem State.merge_answer (s : State) (i : Slot) (c : Cause) (detail : Byte) :
    (s.merge i c detail).1.slot = slotNo i ∧ (s.merge i c detail).1.seq = lo16 (s.slotSeq i) := by
  obtain ⟨ws, v, code, t, _, eq, _⟩ := s.merge_cases i c detail
  rw [eq]
  exact ⟨rfl, rfl⟩

theorem State.merge_wf (s : State) (i : Slot) (c : Cause) (detail : Byte) (h : s.mem.wf) :
    (s.merge i c detail).2.mem.wf := by
  obtain ⟨ws, v, code, t, hr, eq, ht⟩ := s.merge_cases i c detail
  have hv := State.readWords_wf [slotAddr i 2, slotAddr i 3, slotAddr i 4] s h
  rw [hr] at hv
  rw [eq]
  rcases ht with rfl | rfl | rfl | rfl
  · exact v.damage_wf i hv
  · exact hv
  · exact v.causeJoined_wf ws i c detail hv
  · exact State.storeWord_wf _ _ _ hv

/-- A merge is what R140 says. -/
theorem State.merge_merged (s : State) (i : Slot) (c : Cause) (detail : Byte) (h : s.mem.wf) :
    Merged s (s.merge i c detail).2 i c detail (s.merge i c detail).1.code := by
  have hv := State.readWords_wf [slotAddr i 2, slotAddr i 3, slotAddr i 4] s h
  rcases hr : s.readWords [slotAddr i 2, slotAddr i 3, slotAddr i 4] with ⟨ws, v⟩
  rw [hr] at hv
  have hv : v.mem.wf := hv
  refine ⟨?_, ?_⟩ <;> rw [hr] <;> dsimp only
  · intro bad
    rw [State.merge_bad c detail hr bad]
    exact ⟨rfl, v.damage_damaged i hv⟩
  · intro good
    refine ⟨fun listed => ?_, fun new room => ?_, fun new full within => ?_⟩
    · rw [State.merge_listed c detail hr good ((listsKind_iff _ _ _).mpr listed)]
      exact ⟨rfl, rfl⟩
    · rw [State.merge_joined c detail hr good (Bool.eq_false_iff.mpr (mt (listsKind_iff _ _ _).mp new)) room]
      exact ⟨rfl, v.causeJoined_only ws i c detail, v.causeJoined_inc ws i c detail,
        v.causeJoined_read ws i c detail hv⟩
    · rw [State.merge_counted c detail hr good (Bool.eq_false_iff.mpr (mt (listsKind_iff _ _ _).mp new)) (by omega)]
      refine ⟨rfl, (RecorderOnly.storeWord v _ _).trans (.count _ 14), rfl, fun a => ?_⟩
      have least : (if (lo16 (dataAt ws 2)).toNat < 255 then (lo16 (dataAt ws 2)).toNat + 1
          else (lo16 (dataAt ws 2)).toNat) = min 255 ((lo16 (dataAt ws 2)).toNat + 1) := by
        split <;> omega
      rw [State.causeCounted, State.count_mem, State.storeWord_read _ _ _ _ hv, least, full]
      rfl

/-! Taking a trigger (R131, R135, R136) -/

theorem State.takeTrigger_ignored {s : State} {c : Cause} (detail : Byte) (h : s.enabledCause c = false) :
    s.takeTrigger c detail = (⟨0, 0, 0⟩, s) :=
  if_neg (by simp [h])

theorem State.takeTrigger_merge {s : State} {c : Cause} {cap : Capture} (detail : Byte)
    (h : s.enabledCause c = true) (hc : s.inc.capture = some cap) :
    s.takeTrigger c detail = s.merge cap.slot c detail := by
  simp only [State.takeTrigger, h, hc, if_true]

theorem State.takeTrigger_openOrLose {s : State} {c : Cause} (detail : Byte)
    (h : s.enabledCause c = true) (hc : s.inc.capture = none) :
    s.takeTrigger c detail = s.openOrLose c detail := by
  simp only [State.takeTrigger, h, hc, if_true]

theorem State.openOrLose_lost {s : State} (c : Cause) (detail : Byte) (h : s.inc.nextSeq = lastSeq ∨ NoneChosen s) :
    s.openOrLose c detail = (⟨5, 0, lo16 s.inc.nextSeq⟩, s.loseIncident) := by
  unfold State.openOrLose
  split
  · rfl
  · rename_i hn
    cases hc : s.chooseSlot with
    | none => rfl
    | some i => exact absurd (h.resolve_left hn) (State.chooseSlot_eq_some hc).not_none

theorem State.openOrLose_opened {s : State} (c : Cause) (detail : Byte) (hn : s.inc.nextSeq ≠ lastSeq)
    (h : ¬NoneChosen s) : ∃ i, Chosen s i ∧
      s.openOrLose c detail = (⟨1, slotNo i, lo16 s.inc.nextSeq⟩, s.openSlot i c detail) := by
  unfold State.openOrLose
  rw [if_neg hn]
  cases hc : s.chooseSlot with
  | none => exact absurd (State.chooseSlot_eq_none hc) h
  | some i => exact ⟨i, State.chooseSlot_eq_some hc, rfl⟩

/-- What the recorder makes of a trigger, and that Record Memory stays canonical (R131, R132). -/
theorem State.takeTrigger_taken (s : State) (c : Cause) (detail : Byte) (h : s.mem.wf)
    (hpre : s.params.preCount ≤ 32) :
    TriggerTaken s (s.takeTrigger c detail).2 c detail (s.takeTrigger c detail).1.code
      (s.takeTrigger c detail).1.slot (s.takeTrigger c detail).1.seq ∧ (s.takeTrigger c detail).2.mem.wf := by
  cases enabled : s.enabledCause c with
  | false =>
    have off : ¬s.inc.enabled.getLsbD (causeCode c) = true := ne_true_of_eq_false enabled
    rw [State.takeTrigger_ignored detail enabled]
    exact ⟨⟨fun _ => ⟨rfl, rfl, rfl, rfl⟩, fun on => absurd on off, fun on => absurd on off,
      fun _ on => absurd on off⟩, h⟩
  | true =>
    have on : ¬s.inc.enabled.getLsbD (causeCode c) = false := ne_false_of_eq_true enabled
    cases capture : s.inc.capture with
    | some cap =>
      have merged := s.merge_merged cap.slot c detail h
      obtain ⟨slot, seq⟩ := s.merge_answer cap.slot c detail
      rw [State.takeTrigger_merge detail enabled capture]
      refine ⟨⟨fun off => absurd off on, fun _ idle => absurd (capture.symm.trans idle) nofun,
        fun _ idle => absurd (capture.symm.trans idle) nofun, fun cap' _ hc => ?_⟩, s.merge_wf cap.slot c detail h⟩
      cases capture.symm.trans hc
      exact ⟨merged, slot, seq⟩
    | none =>
      have idle : ∀ cap, s.inc.capture ≠ some cap := fun _ hc => absurd (capture.symm.trans hc) nofun
      rw [State.takeTrigger_openOrLose detail enabled capture]
      by_cases lost : s.inc.nextSeq = lastSeq ∨ NoneChosen s
      · rw [State.openOrLose_lost c detail lost]
        exact ⟨⟨fun off => absurd off on, fun _ _ _ => ⟨s.loseIncident_lost h, rfl, rfl, rfl⟩,
          fun _ _ hn hc => absurd lost (not_or.mpr ⟨hn, hc⟩), fun cap _ hc => absurd hc (idle cap)⟩, s.numberTaken_wf h⟩
      · obtain ⟨hn, hc⟩ := not_or.mp lost
        obtain ⟨i, chosen, eq⟩ := State.openOrLose_opened c detail hn hc
        rw [eq]
        exact ⟨⟨fun off => absurd off on, fun _ _ l => absurd l lost,
          fun _ _ _ _ => ⟨i, chosen, s.openSlot_opened i c detail h hpre, rfl, rfl, rfl⟩,
          fun cap _ hc => absurd hc (idle cap)⟩, s.openSlot_wf i c detail h⟩

/-! Triggers leave the links -/

theorem State.readWords_links (s : State) (as : List Nat) : (s.readWords as).2.links = s.links := by
  obtain ⟨m, c, h⟩ := s.readWords_frame as
  rw [h]
  rfl

theorem State.damage_links (s : State) (i : Slot) : (s.damage i).links = s.links := by
  obtain ⟨m, c, h⟩ := s.readWord_frame (slotAddr i 6)
  have read : (s.readWord (slotAddr i 6)).2.links = s.links := by
    rw [h]
    rfl
  exact (State.damageWith_only _ i _).links.trans read

theorem State.loseIncident_links (s : State) : s.loseIncident.links = s.links := by
  unfold State.loseIncident
  dsimp only
  split <;> rfl

theorem State.merge_links (s : State) (i : Slot) (c : Cause) (detail : Byte) :
    (s.merge i c detail).2.links = s.links := by
  obtain ⟨ws, v, code, t, hr, eq, ht⟩ := s.merge_cases i c detail
  have hv := s.readWords_links [slotAddr i 2, slotAddr i 3, slotAddr i 4]
  rw [hr] at hv
  rw [eq, ← hv]
  rcases ht with rfl | rfl | rfl | rfl
  · exact v.damage_links i
  · rfl
  · exact (v.causeJoined_only ws i c detail).links
  · rfl

theorem State.takeTrigger_links (s : State) (c : Cause) (detail : Byte) :
    (s.takeTrigger c detail).2.links = s.links := by
  unfold State.takeTrigger State.openOrLose
  split
  · split
    · exact s.merge_links _ c detail
    · split
      · exact s.loseIncident_links
      · split
        · exact (s.openSlot_only _ c detail).links
        · exact s.loseIncident_links
  · rfl

/-! MARK (R132) -/

theorem lo8_eq_setWidth (w : Half) : lo8 w = w.setWidth 8 := BitVec.eq_of_toNat_eq (by simp [lo8])

theorem markAnswer_taken {r : Req} (u : State) (h : r.words.w1.toNat ≤ 255) :
    markAnswer r u = answerOk (u.takeTrigger .manualMark (r.words.w1.setWidth 8)).2
      (u.takeTrigger .manualMark (r.words.w1.setWidth 8)).1.words := by
  rw [markAnswer, lo8_eq_setWidth]
  exact if_neg (Nat.not_lt.mpr h)

/-- Settles O52: a trigger that arrives in service, and a mark. -/
theorem triggersTaken : Obligations.TriggersTaken := by
  refine ⟨fun c detail s hp h hpre => ?_, fun r s u hs => ⟨fun hr => ?_, fun hr h hpre => ?_⟩⟩
  · obtain ⟨taken, wf⟩ := (s.arrived ⟨c, detail⟩).takeTrigger_taken c detail h hpre
    refine ⟨_, _, _, _, ?_, wf, taken⟩
    exact congrArg Host.Outcome.next (if_pos (decide_eq_true hp))
  · exact congrArg Host.Outcome.next (State.serve_refuse hs (if_pos hr))
  · have taken := u.takeTrigger_taken .manualMark (r.words.w1.setWidth 8) h hpre
    refine ⟨_, _, _, _, congrArg Host.Outcome.next (State.serve_ok hs (markAnswer_taken u hr) ?_), taken.1⟩
    exact u.takeTrigger_links _ _

end Sys2Proof.Machine
end

section
/-! PROOFS. The store stays sound (O57): what an operation keeps of the counts' range and of the agreement of the
recorder's working copies, capture, armed set and sequence numbers, and the operations of the Incident Recorder
that keep them. -/

namespace Sys2Proof.Machine

/-! What is kept -/

/-- From `s` to `t` the counts stay in their range and the recorder's copies go on agreeing. -/
structure StoreKept (s t : State) : Prop where
  counts : s.CountsInRange → t.CountsInRange
  recorder : RecorderConsistent s → RecorderConsistent t

theorem StoreKept.refl (s : State) : StoreKept s s := ⟨id, id⟩

theorem StoreKept.trans {s t u : State} (h : StoreKept s t) (g : StoreKept t u) : StoreKept s u :=
  ⟨g.counts ∘ h.counts, g.recorder ∘ h.recorder⟩

/-- From `s` to `t` the phase and the recorder stand, and the counts stay in their range. -/
structure StoreStands (s t : State) : Prop where
  phase : t.phase = s.phase
  inc : t.inc = s.inc
  counts : s.CountsInRange → t.CountsInRange

theorem StoreStands.refl (s : State) : StoreStands s s := ⟨rfl, rfl, id⟩

theorem StoreStands.trans {s t u : State} (h : StoreStands s t) (g : StoreStands t u) : StoreStands s u :=
  ⟨g.phase.trans h.phase, g.inc.trans h.inc, g.counts ∘ h.counts⟩

/-- An operation that leaves the phase, the recorder and the counters. -/
theorem StoreStands.of_eq {s t : State} (hp : t.phase = s.phase) (hi : t.inc = s.inc)
    (hc : t.counters = s.counters) : StoreStands s t :=
  ⟨hp, hi, fun h n => hc ▸ h n⟩

/-- The recorder's copies agree after a change that leaves the phase, the copies, the capture and the armed set, and
at most raises the next sequence number. -/
theorem RecorderConsistent.of_same {s t : State} (h : RecorderConsistent s) (phase : t.phase = s.phase)
    (slots : t.inc.slots = s.inc.slots) (capture : t.inc.capture = s.inc.capture)
    (armed : t.inc.armed = s.inc.armed) (next : s.inc.nextSeq ≤ t.inc.nextSeq) (ring : t.inc.ring.length ≤ 64) :
    RecorderConsistent t where
  capturing := by rw [phase, slots, capture]; exact h.capturing
  armed := by rw [phase, slots, armed]; exact h.armed
  scan := by rw [phase, capture, armed]; exact h.scan
  distinct := by rw [slots]; exact h.distinct
  next i n hn := by
    rw [slots] at hn
    have := h.next i n hn
    bv_omega
  positive := by
    have := h.positive
    bv_omega
  ring := ring

theorem StoreStands.kept {s t : State} (h : StoreStands s t) : StoreKept s t :=
  ⟨h.counts, fun g => g.of_same h.phase (by rw [h.inc]) (by rw [h.inc]) (by rw [h.inc])
    (h.inc ▸ BitVec.le_refl _) (h.inc ▸ g.ring)⟩

/-- The recorder's copies agree after slot `i` has left CAPTURING, or was not in it, for the state `x`: a capture in
it is over, and it is armed only where it is UNREAD (R139, R141, R147, R156). -/
theorem RecorderConsistent.settle {s t : State} (h : RecorderConsistent s) {i : Slot} {x : SlotState}
    (hx : x ≠ .capturing) (phase : t.phase = s.phase)
    (slots : t.inc.slots = s.inc.slots.set i { s.inc.slots.get i with state := x })
    (capture : t.inc.capture = if s.capturingIn i then none else s.inc.capture)
    (armed : ∀ j, t.inc.armed.get j = true → s.inc.armed.get j = true ∧ (j = i → x = .unread))
    (next : t.inc.nextSeq = s.inc.nextSeq) (ring : t.inc.ring = s.inc.ring) : RecorderConsistent t where
  capturing := by
    intro ha j
    rw [phase] at ha
    rw [slots, capture, PerSlot.get_set]
    have hj := h.capturing ha j
    have hi := s.capturingIn_iff i
    by_cases hji : j = i
    · subst hji
      rw [if_pos rfl]
      refine iff_of_false hx ?_
      rintro ⟨c, hc, rfl⟩
      split at hc
      · cases hc
      · exact absurd (hi.mpr ⟨c, hc, rfl⟩) ‹_›
    · rw [if_neg hji, hj]
      split
      · rename_i hcap
        obtain ⟨c, hc, rfl⟩ := hi.mp hcap
        refine iff_of_false ?_ (by simp)
        rintro ⟨d, hd, rfl⟩
        exact hji (by rw [hc] at hd; cases hd; rfl)
      · exact Iff.rfl
  armed := by
    intro ha j hj
    rw [phase] at ha
    obtain ⟨hs, hi⟩ := armed j hj
    rw [slots, PerSlot.get_set]
    split
    · exact hi ‹_›
    · exact h.armed ha j hs
  scan := by
    intro hp
    rw [phase] at hp
    obtain ⟨hc, hn⟩ := h.scan hp
    refine ⟨by rw [capture, hc]; simp, fun j => ?_⟩
    by_contra hj
    exact Bool.false_ne_true ((hn j).symm.trans (armed j (Bool.not_eq_false _ ▸ hj)).1)
  distinct := by
    have hseq : ∀ j, (t.inc.slots.get j).seq = (s.inc.slots.get j).seq := by
      intro j
      rw [slots, PerSlot.get_set]
      split
      · subst_vars; rfl
      · rfl
    intro j k n
    rw [hseq, hseq]
    exact h.distinct j k n
  next := by
    intro j n
    rw [slots, next, PerSlot.get_set]
    split
    · subst_vars; exact h.next _ n
    · exact h.next j n
  positive := next ▸ h.positive
  ring := ring ▸ h.ring

/-- The recorder's copies agree after an opening in slot `i`, which was not UNREAD, with the next sequence number
(R135 to R137). -/
theorem RecorderConsistent.opened {s t : State} (h : RecorderConsistent s) {i : Slot} {x : SlotState}
    {c : Option Capture} (hp : s.phase = .running) (hc : s.inc.capture = none) (hi : s.slotState i ≠ .unread)
    (hn : s.inc.nextSeq ≠ lastSeq) (hx : x = .capturing ↔ ∃ d, c = some d ∧ d.slot = i)
    (hd : ∀ d, c = some d → d.slot = i) (phase : t.phase = s.phase)
    (slots : t.inc.slots = s.inc.slots.set i ⟨x, some s.inc.nextSeq⟩) (capture : t.inc.capture = c)
    (armed : t.inc.armed = s.inc.armed) (next : t.inc.nextSeq = s.inc.nextSeq + 1)
    (ring : t.inc.ring = s.inc.ring) : RecorderConsistent t := by
  have alive : s.phase.alive = true := by rw [hp]; rfl
  have hlast : s.inc.nextSeq.toNat ≠ 4294967295 := fun e => hn (BitVec.eq_of_toNat_eq e)
  have hlt : s.inc.nextSeq < s.inc.nextSeq + 1 := by bv_omega
  have below : ∀ j n, (s.inc.slots.get j).seq = some n → n < s.inc.nextSeq := h.next
  refine ⟨fun _ j => ?_, fun _ j hj => ?_, fun hs => ?_, fun j k n => ?_, fun j n => ?_, ?_, ring ▸ h.ring⟩
  · rw [slots, capture, PerSlot.get_set]
    split
    · subst_vars; exact hx
    · rename_i hji
      rw [h.capturing alive j, hc]
      refine iff_of_false (by simp) ?_
      rintro ⟨d, e, rfl⟩
      exact hji (hd d e)
  · rw [armed] at hj
    have hu := h.armed alive j hj
    rw [slots, PerSlot.get_set]
    split
    · subst_vars; exact absurd hu hi
    · exact hu
  · rw [phase, hp] at hs
    cases hs
  · have apart : ∀ m, (s.inc.slots.get m).seq = some n → n ≠ s.inc.nextSeq := by
      rintro m e rfl
      have := below m _ e
      bv_omega
    rw [slots, PerSlot.get_set, PerSlot.get_set]
    split <;> split <;> intro hj hk
    · subst_vars; rfl
    · exact absurd (Option.some.inj hj).symm (apart k hk)
    · exact absurd (Option.some.inj hk).symm (apart j hj)
    · exact h.distinct j k n hj hk
  · rw [slots, next, PerSlot.get_set]
    split
    · intro e
      rw [← Option.some.inj e]
      exact hlt
    · intro e
      have := below j n e
      bv_omega
  · rw [next]
    have := h.positive
    bv_omega

/-! Counting, stores and reads -/

/-- A count stays in its range at an occurrence (R163). -/
theorem Counter.occur_le (n : Nat) (c : Counter) (h : c.count ≤ 65535) : (c.occur n).count ≤ 65535 := by
  unfold Counter.occur
  split
  · rename_i hc
    exact hc.2
  · exact h

theorem State.count_stands (s : State) (n : Nat) : StoreStands s (s.count n) :=
  ⟨rfl, rfl, fun h i => by rw [State.count_get]; exact Counter.occur_le n _ (h i)⟩

theorem State.countMany_stands (n k : Nat) : ∀ s : State, StoreStands s (s.countMany n k) := by
  induction k with
  | zero => exact fun s => .refl s
  | succ k ih => exact fun s => (s.count_stands n).trans (ih (s.count n))

theorem State.storeWord_stands (s : State) (a : Nat) (d : Word) : StoreStands s (s.storeWord a d) :=
  .of_eq rfl rfl rfl

theorem State.storeWords_stands (ds : List Word) (s : State) (a : Nat) : StoreStands s (s.storeWords a ds) := by
  obtain ⟨m, h⟩ := s.storeWords_frame ds a
  rw [h]
  exact .of_eq rfl rfl rfl

theorem State.readWord_stands (s : State) (a : Nat) : StoreStands s (s.readWord a).2 := by
  unfold State.readWord State.afterRead
  dsimp only
  split
  · exact .refl s
  · exact (s.storeWord_stands a _).trans (State.count_stands _ 16)
  · exact s.count_stands 17

theorem State.readWords_stands (as : List Nat) : ∀ s : State, StoreStands s (s.readWords as).2 := by
  induction as with
  | nil => exact fun s => .refl s
  | cons a as ih => exact fun s => (s.readWord_stands a).trans (ih _)

/-- A change of the recorder alone keeps the counts and, where its copies go on agreeing, the store. -/
theorem StoreKept.of_recorder {s t : State} (hc : t.counters = s.counters)
    (h : RecorderConsistent s → RecorderConsistent t) : StoreKept s t :=
  ⟨fun g n => hc ▸ g n, h⟩

/-! Slots -/

theorem State.damageWith_storeKept (s : State) (i : Slot) (six : Checked) : StoreKept s (s.damageWith i six) := by
  refine .of_recorder rfl fun h => h.settle (i := i) (x := .damaged) (by decide) rfl rfl rfl (fun j hj => ?_) rfl rfl
  have hj' : (s.inc.armed.set i false).get j = true := hj
  rw [PerSlot.get_set] at hj'
  split at hj'
  · cases hj'
  · exact ⟨hj', fun e => absurd e ‹_›⟩

theorem State.damage_storeKept (s : State) (i : Slot) : StoreKept s (s.damage i) :=
  (s.readWord_stands (slotAddr i 6)).kept.trans (State.damageWith_storeKept _ _ _)

/-- A change of the recorder's other fields keeps the store. -/
theorem StoreKept.of_fields {s t : State} (phase : t.phase = s.phase) (counters : t.counters = s.counters)
    (slots : t.inc.slots = s.inc.slots) (capture : t.inc.capture = s.inc.capture)
    (armed : t.inc.armed = s.inc.armed) (next : t.inc.nextSeq = s.inc.nextSeq) (ring : t.inc.ring = s.inc.ring) :
    StoreKept s t :=
  .of_recorder counters fun h => h.of_same phase slots capture armed (next ▸ BitVec.le_refl _) (ring ▸ h.ring)

theorem State.freezeFor_storeKept (s : State) (c : Cause) : StoreKept s (s.freezeFor c) := by
  have h := s.freezeFor_only c
  have hi := s.freezeFor_inc c
  exact .of_fields h.phase h.counters (by rw [hi]) (by rw [hi]) (by rw [hi]) (by rw [hi]) (by rw [hi])

theorem State.leaveFreeze_storeKept (s : State) : StoreKept s s.leaveFreeze := by
  unfold State.leaveFreeze
  split
  · exact .of_fields rfl rfl rfl rfl rfl rfl rfl
  · exact .refl s

/-- The next sequence number does not wrap where it is consumed (R135). -/
theorem nextSeq_le_succ {n : Word} (h : n ≠ lastSeq) : n ≤ n + 1 := by
  have : n.toNat ≠ 4294967295 := fun e => h (BitVec.eq_of_toNat_eq e)
  bv_omega

theorem State.consumeSeq_storeKept (s : State) (h : s.inc.nextSeq ≠ lastSeq) : StoreKept s s.consumeSeq :=
  .of_recorder rfl fun g => g.of_same rfl rfl rfl rfl (nextSeq_le_succ h) g.ring

theorem State.loseIncident_storeKept (s : State) : StoreKept s s.loseIncident := by
  unfold State.loseIncident
  dsimp only
  refine StoreKept.trans ?_ (State.count_stands _ 13).kept
  refine StoreKept.trans (t := if s.inc.nextSeq = lastSeq then s else s.consumeSeq) ?_
    (.of_fields rfl rfl rfl rfl rfl rfl rfl)
  split
  · exact .refl s
  · exact s.consumeSeq_storeKept ‹_›

/-! Openings (R137) -/

theorem RecorderOnly.counts {u t : State} {es : List Nat} (h : RecorderOnly u t es) (hu : u.CountsInRange) :
    t.CountsInRange := by
  have all : ∀ (es : List Nat) (v : State), v.CountsInRange → (es.foldl State.count v).CountsInRange := by
    intro es
    induction es with
    | nil => exact fun _ hv => hv
    | cons e es ih => exact fun v hv => ih _ ((v.count_stands e).counts hv)
  intro n
  rw [h.counters]
  exact all es u hu n

theorem State.openSlot_storeKept (s : State) {i : Slot} (c : Cause) (detail : Byte) (hp : s.phase = .running)
    (hc : s.inc.capture = none) (hi : Chosen s i) (hn : s.inc.nextSeq ≠ lastSeq) :
    StoreKept s (s.openSlot i c detail) where
  counts := (s.openSlot_only i c detail).counts
  recorder h := by
    have hinc := s.openSlot_inc i c detail
    refine h.opened (c := if s.params.postCount = 0 then none else some ⟨i, 0, s.params.postCount⟩) hp hc
      hi.not_unread hn ?_ ?_
      (s.openSlot_only i c detail).phase (by rw [hinc]) (by rw [hinc]) (by rw [hinc]) (by rw [hinc]) (by rw [hinc])
    · split <;> simp
    · intro d hd
      split at hd
      · cases hd
      · cases hd; rfl

/-! Triggers (R131, R135 to R140) -/

/-- A slot that exists for a capture is damaged, written on or left; the capture stays in it or is over (R140). -/
theorem State.merge_storeKept (s : State) (i : Slot) (c : Cause) (detail : Byte) :
    StoreKept s (s.merge i c detail).2 := by
  unfold State.merge
  have hr := (s.readWords_stands [slotAddr i 2, slotAddr i 3, slotAddr i 4]).kept
  generalize s.readWords [slotAddr i 2, slotAddr i 3, slotAddr i 4] = x at hr ⊢
  obtain ⟨ws, s₁⟩ := x
  dsimp only at hr ⊢
  split
  · exact hr.trans (s₁.damage_storeKept i)
  · split
    · exact hr
    · split
      · refine (hr.trans ?_).trans (State.freezeFor_storeKept _ c)
        exact ((State.storeWords_stands _ _ _).trans (State.count_stands _ 14)).kept
      · exact hr.trans ((State.storeWord_stands _ _ _).trans (State.count_stands _ 14)).kept

theorem State.openOrLose_storeKept (s : State) (c : Cause) (detail : Byte) (hp : s.phase = .running)
    (hc : s.inc.capture = none) : StoreKept s (s.openOrLose c detail).2 := by
  unfold State.openOrLose
  split
  · exact s.loseIncident_storeKept
  · split
    · exact s.openSlot_storeKept c detail hp hc (State.chooseSlot_eq_some ‹_›) ‹_›
    · exact s.loseIncident_storeKept

theorem State.takeTrigger_storeKept (s : State) (c : Cause) (detail : Byte) (hp : s.phase = .running) :
    StoreKept s (s.takeTrigger c detail).2 := by
  unfold State.takeTrigger
  split
  · split
    · exact s.merge_storeKept _ c detail
    · exact s.openOrLose_storeKept c detail hp ‹_›
  · exact .refl s

theorem State.triggerArrives_storeKept (s : State) (c : Cause) (detail : Byte) (hp : s.phase = .running) :
    StoreKept s (s.triggerArrives c detail) :=
  (StoreStands.of_eq rfl rfl rfl : StoreStands s (s.arrived ⟨c, detail⟩)).kept.trans
    (State.takeTrigger_storeKept _ c detail hp)

/-! Capture (R128, R130, R139, R141) -/

/-- A capture that is complete leaves its slot UNREAD (R139, R141). -/
theorem State.complete_storeKept (s : State) {c : Capture} (hc : s.inc.capture = some c) :
    StoreKept s (s.setSlotState c.slot .unread).endCapture := by
  refine .of_recorder rfl fun h => h.settle (i := c.slot) (x := .unread) (by decide) rfl rfl ?_
    (fun j hj => ⟨hj, fun _ => rfl⟩) rfl rfl
  rw [if_pos ((s.capturingIn_iff c.slot).mpr ⟨c, hc, rfl⟩)]
  rfl

theorem State.afterAppend_storeKept (s : State) {c : Capture} (six : Word) (hc : s.inc.capture = some c) :
    StoreKept s (s.afterAppend c six) := by
  unfold State.afterAppend
  split
  · exact (s.storeWord_stands _ _).kept.trans (State.complete_storeKept _ hc)
  · exact .of_recorder rfl fun h =>
      { h with
        capturing := fun ha i => (h.capturing ha i).trans (by simp [hc])
        scan := fun hs => absurd ((h.scan hs).1.symm.trans hc) (by simp) }

theorem State.append_storeKept (s : State) {c : Capture} (x : Snapshot) (hc : s.inc.capture = some c) :
    StoreKept s (s.append c x) := by
  unfold State.append
  have hr := s.readWords_stands (appendReads c)
  generalize s.readWords (appendReads c) = y at hr ⊢
  obtain ⟨ws, s₁⟩ := y
  dsimp only at hr ⊢
  split
  · split
    · exact hr.kept.trans (s₁.damageWith_storeKept _ _)
    · exact hr.kept.trans (s₁.damage_storeKept _)
  · have hw : ∀ a b d, StoreStands s ((s₁.storeWords a x.words).storeWord b d) := fun a b d =>
      (hr.trans (State.storeWords_stands x.words s₁ a)).trans (State.storeWord_stands _ b d)
    exact (hw _ _ _).kept.trans (State.afterAppend_storeKept _ _ ((congrArg Recorder.capture (hw _ _ _).inc).trans hc))

theorem State.appendIfCapturing_storeKept (s : State) (x : Snapshot) : StoreKept s (s.appendIfCapturing x) := by
  unfold State.appendIfCapturing
  split
  · exact s.append_storeKept x ‹_›
  · exact .refl s

theorem State.afterAppend_only (s : State) (c : Capture) (six : Word) : RecorderOnly s (s.afterAppend c six) [] := by
  unfold State.afterAppend
  split <;> rfl

/-- An append leaves the phase. -/
theorem State.appendIfCapturing_phase (s : State) (x : Snapshot) : (s.appendIfCapturing x).phase = s.phase := by
  unfold State.appendIfCapturing
  split
  · rename_i c _
    unfold State.append
    have hr := (s.readWords_stands (appendReads c)).phase
    generalize s.readWords (appendReads c) = y at hr ⊢
    obtain ⟨ws, s₁⟩ := y
    dsimp only at hr ⊢
    split
    · split
      · exact (s₁.damageWith_only _ _).phase.trans hr
      · exact ((State.damageWith_only _ _ _).phase.trans (s₁.readWord_stands _).phase).trans hr
    · refine (State.afterAppend_only _ c _).phase.trans ?_
      exact (State.storeWord_stands _ _ _).phase.trans ((State.storeWords_stands x.words s₁ _).phase.trans hr)
  · rfl

theorem State.takePendingRestart_storeKept (s : State) (hp : s.phase = .running) :
    StoreKept s s.takePendingRestart := by
  unfold State.takePendingRestart
  split
  · exact (s.takeTrigger_storeKept .restart _ hp).trans (.of_fields rfl rfl rfl rfl rfl rfl rfl)
  · exact .refl s

/-- The ring holds up to 64 snapshots after a push (R130). -/
theorem pushRing_length_le (ring : List Snapshot) (x : Snapshot) : (pushRing ring x).length ≤ 64 := by
  simp only [pushRing, List.length_drop, List.length_append, List.length_singleton]
  omega

theorem State.sampleExpiry_storeKept (s : State) (hp : s.phase = .running) : StoreKept s s.sampleExpiry := by
  unfold State.sampleExpiry
  dsimp only
  refine StoreKept.trans (StoreKept.trans ?_ (State.appendIfCapturing_storeKept _ _))
    (State.takePendingRestart_storeKept _ ?_)
  · exact .of_recorder rfl fun h =>
      h.of_same rfl rfl rfl rfl (BitVec.le_refl _) (pushRing_length_le s.inc.ring s.snapshot)
  · rw [State.appendIfCapturing_phase]
    exact hp

theorem State.truncate_storeKept (s : State) : StoreKept s s.truncate := by
  unfold State.truncate
  split
  · exact .refl s
  · rename_i c hc
    have hr := s.readWord_stands (slotAddr c.slot 6)
    generalize s.readWord (slotAddr c.slot 6) = x at hr ⊢
    obtain ⟨six, s₁⟩ := x
    dsimp only at hr ⊢
    split
    · exact hr.kept.trans (s₁.damageWith_storeKept _ _)
    · have hw := hr.trans (s₁.storeWord_stands (slotAddr c.slot 6) (stateWord .unread (lo16 six.data ||| 1)))
      exact hw.kept.trans (State.complete_storeKept _ ((congrArg Recorder.capture hw.inc).trans hc))

/-! Reading (R146, R147) -/

/-- An acknowledged slot is READ and no longer armed (R147). -/
theorem State.acknowledge_storeKept (s : State) (i : Slot) (marks : Half) (hp : s.phase = .running)
    (hi : s.slotState i = .unread) : StoreKept s (s.acknowledge i marks) := by
  refine .of_recorder rfl fun h => h.settle (i := i) (x := .read) (by decide) rfl rfl ?_ (fun j hj => ?_) rfl rfl
  · have quiet : s.capturingIn i = false := by
      refine Bool.eq_false_iff.mpr fun hc => ?_
      have hs := (h.capturing (by rw [hp]; rfl) i).mpr ((s.capturingIn_iff i).mp hc)
      rw [State.slotState, hs] at hi
      cases hi
    rw [quiet]
    rfl
  · have hj' : (s.inc.armed.set i false).get j = true := hj
    rw [PerSlot.get_set] at hj'
    split at hj'
    · cases hj'
    · exact ⟨hj', fun e => absurd e ‹_›⟩

theorem State.readHeader_storeKept (s : State) (l : LinkId) (i : Slot) (hp : s.phase = .running) :
    StoreKept s (s.readHeader l i).2 := by
  unfold State.readHeader
  have hr := s.readWords_stands (headerAddrs i)
  generalize s.readWords (headerAddrs i) = x at hr ⊢
  obtain ⟨cs, s₁⟩ := x
  dsimp only at hr ⊢
  split
  · exact hr.kept.trans (s₁.damageWith_storeKept i _)
  · split
    · exact hr.kept
    · split
      · rename_i hm
        simp only [State.mayAcknowledge, Bool.and_eq_true, decide_eq_true_eq] at hm
        refine hr.kept.trans (s₁.acknowledge_storeKept i _ (hr.phase.trans hp) ?_)
        rw [State.slotState, hr.inc]
        exact hm.1.2
      · exact hr.kept

theorem State.armUnread_storeKept (s : State) (hp : s.phase = .running) : StoreKept s s.armUnread :=
  .of_recorder rfl fun h =>
    { h with
      armed := fun _ i hi => of_decide_eq_true ((PerSlot.get_ofFn _ i).symm.trans hi)
      scan := fun hs => by
        have : s.phase = .scanning := hs
        rw [hp] at this
        cases this }

end Sys2Proof.Machine
end

section
/-! PROOFS. The operations of the other blocks leave the phase and the recorder, and keep the counts in their
range. -/

namespace Sys2Proof.Machine

/-! Hand-offs -/

theorem forEach_stands {α : Type} (xs : List α) (f : α → State → State) (h : ∀ x u, StoreStands u (f x u))
    (s : State) : StoreStands s (forEach xs f s) :=
  forEach_keeps (StoreStands s) xs f (fun x u hu => hu.trans (h x u)) s (.refl s)

theorem inAnyOrder_stands (fs : List (State → State)) (h : ∀ f ∈ fs, ∀ u, StoreStands u (f u)) (s : State) :
    StoreStands s (inAnyOrder fs s) :=
  inAnyOrder_keeps (StoreStands s) (fun _ _ hu => hu.trans (.of_eq rfl rfl rfl)) fs
    (fun f hf u hu => hu.trans (h f hf u)) s (.refl s)

/-- See `inAnyOrder_stands`, for hand-offs of one kind. -/
theorem inAnyOrder_map_stands {α : Type} (xs : List α) (f : α → State → State) (h : ∀ x u, StoreStands u (f x u))
    (s : State) : StoreStands s (inAnyOrder (xs.map f) s) := by
  refine inAnyOrder_stands _ (fun g hg => ?_) s
  obtain ⟨x, _, rfl⟩ := List.mem_map.mp hg
  exact h x

/-- After an operation that leaves the phase, the recorder and the counters. -/
theorem StoreStands.after {s t u : State} (g : StoreStands t u) (hp : t.phase = s.phase) (hi : t.inc = s.inc)
    (hc : t.counters = s.counters) : StoreStands s u :=
  (StoreStands.of_eq hp hi hc).trans g

theorem State.send_stands (s : State) (c : Cause) (d : Nat) : StoreStands s (s.send c d) := .of_eq rfl rfl rfl

/-! The tables and the Demand Unit -/

theorem State.occur_stands (s : State) (k : ExcKind) (d : Nat) : StoreStands s (s.occur k d) := by
  obtain ⟨e, t, h⟩ := s.occur_frame k d
  rw [h]
  exact .of_eq rfl rfl rfl

theorem State.evaluateMode_stands (s : State) : StoreStands s s.evaluateMode := by
  obtain ⟨d, r, b, h⟩ := s.evaluateMode_frame
  rw [h]
  exact .of_eq rfl rfl rfl

theorem State.demandChanged_stands (s : State) : StoreStands s s.demandChanged := by
  obtain ⟨d, r, b, h⟩ := s.demandChanged_frame
  rw [h]
  exact .of_eq rfl rfl rfl

theorem State.freshExpiry_stands (s : State) (i : Item) : StoreStands s (s.freshExpiry i) := by
  obtain ⟨p, e, t, h⟩ := s.freshExpiry_frame i
  rw [h]
  exact .of_eq rfl rfl rfl

theorem State.holdExpiry_stands (s : State) (i : Item) : StoreStands s (s.holdExpiry i) := by
  obtain ⟨p, d, r, b, h⟩ := s.holdExpiry_frame i
  rw [h]
  exact .of_eq rfl rfl rfl

theorem State.goodHoldExpiry_stands (s : State) (i : Item) : StoreStands s (s.goodHoldExpiry i) := by
  obtain ⟨p, d, r, b, h⟩ := s.goodHoldExpiry_frame i
  rw [h]
  exact .of_eq rfl rfl rfl

theorem State.post_stands (s : State) (r : Req) (items : List Item) : StoreStands s (s.post r items) := by
  unfold State.post
  extract_lets ds s₁ s₂ s₃ s₄
  obtain ⟨d, x, b, h⟩ := s₄.handPosted_frame s.posted
  rw [h]
  refine StoreStands.trans (t := s₄) ?_ (.of_eq rfl rfl rfl)
  have h₂ : StoreStands s s₂ := (State.countMany_stands 19 _ s₁).after rfl rfl rfl
  have first : ∀ (u : State) k (xs : List Delivery), StoreStands u (u.occurFirst k xs) := by
    intro u k xs
    obtain ⟨e, t, g⟩ := u.occurFirst_frame k xs
    rw [g]
    exact .of_eq rfl rfl rfl
  exact (h₂.trans (first _ _ _)).trans (first _ _ _)

theorem State.writeResource_stands (s : State) (x : Resource) (f : Field) (v : Nat) :
    StoreStands s (s.writeResource x f v) := by
  cases x with
  | electric k =>
    obtain ⟨r, b, h⟩ := s.writeElectric_frame k f v
    exact .of_eq ((congrArg State.phase h).trans rfl) ((congrArg State.inc h).trans rfl)
      ((congrArg State.counters h).trans rfl)
  | air t =>
    obtain ⟨r, b, h⟩ := s.writeAir_frame t f v
    exact .of_eq ((congrArg State.phase h).trans rfl) ((congrArg State.inc h).trans rfl)
      ((congrArg State.counters h).trans rfl)

theorem State.reduceTruckByTable_stands (s : State) (t : Truck) (b : Nat) :
    StoreStands s (s.reduceTruckByTable t b) := by
  obtain ⟨x, h⟩ := s.reduceTruckByTable_frame t b
  rw [h]
  exact .of_eq rfl rfl rfl

theorem State.refreshLockout_stands (s : State) (k : Axle) : StoreStands s (s.refreshLockout k) := by
  obtain ⟨r, b, x, h⟩ := s.refreshLockout_frame k
  rw [h]
  exact .of_eq rfl rfl rfl

/-! The holder sets -/

theorem State.penaltyAdd_stands (s : State) (l : LinkId) : StoreStands s (s.penaltyAdd l) := by
  unfold State.penaltyAdd
  split
  · exact .refl s
  · split
    · exact .of_eq rfl rfl rfl
    · refine StoreStands.trans ?_ (State.send_stands _ _ _)
      exact (State.demandChanged_stands _).after rfl rfl rfl

theorem State.penaltyRemove_stands (s : State) (l : LinkId) : StoreStands s (s.penaltyRemove l) := by
  unfold State.penaltyRemove
  dsimp only
  split
  · split
    · exact .of_eq rfl rfl rfl
    · exact (State.demandChanged_stands _).after rfl rfl rfl
  · exact .refl s

theorem State.penaltyEmpty_stands (s : State) : StoreStands s s.penaltyEmpty := by
  unfold State.penaltyEmpty
  split
  · exact (State.demandChanged_stands _).after rfl rfl rfl
  · exact .refl s

theorem State.emergencyAdd_stands (s : State) (l : LinkId) : StoreStands s (s.emergencyAdd l) := by
  unfold State.emergencyAdd
  split
  · exact .refl s
  · split
    · exact .of_eq rfl rfl rfl
    · refine StoreStands.trans ?_ (State.send_stands _ _ _)
      exact (State.demandChanged_stands _).after rfl rfl rfl

theorem State.emergencyEndCut_stands (s : State) (t : Truck) : StoreStands s (s.emergencyEndCut t) := by
  unfold State.emergencyEndCut
  dsimp only
  split <;> exact .of_eq rfl rfl rfl

theorem State.emergencyRemove_stands (s : State) (l : LinkId) : StoreStands s (s.emergencyRemove l) := by
  unfold State.emergencyRemove
  dsimp only
  split
  · split
    · exact .of_eq rfl rfl rfl
    · refine (inAnyOrder_stands _ (fun f hf u => ?_) _).after rfl rfl rfl
      simp only [List.mem_cons, List.not_mem_nil, or_false] at hf
      rcases hf with rfl | rfl | rfl
      · exact u.demandChanged_stands
      · exact u.emergencyEndCut_stands .t1
      · exact u.emergencyEndCut_stands .t2
  · exact .refl s

theorem State.maintAsk_stands (s : State) (l : LinkId) (on : Bool) : StoreStands s (s.maintAsk l on) := by
  unfold State.maintAsk
  split
  · exact .refl s
  · exact (State.evaluateMode_stands _).after rfl rfl rfl

/-! The Blend Unit -/

theorem State.compute_stands (s : State) : StoreStands s s.compute := by
  unfold State.compute
  dsimp only
  split
  · exact (State.count_stands _ 20).after rfl rfl rfl
  · exact .of_eq rfl rfl rfl

theorem State.shortfallExpiry_stands (s : State) : StoreStands s s.shortfallExpiry := by
  unfold State.shortfallExpiry
  split
  · exact .refl s
  · refine StoreStands.trans ?_ (State.count_stands _ 15)
    exact (State.occur_stands _ _ _).after rfl rfl rfl

theorem State.deviationExpiry_stands (s : State) (t : Truck) : StoreStands s (s.deviationExpiry t) := by
  unfold State.deviationExpiry
  split
  · exact (State.occur_stands _ _ _).after rfl rfl rfl
  · exact .refl s

theorem State.deviationAtOnce_stands (s : State) (t : Truck) : StoreStands s (s.deviationAtOnce t) := by
  unfold State.deviationAtOnce
  split
  · exact (State.occur_stands _ _ _).after rfl rfl rfl
  · exact .refl s

/-! The Speed Unit -/

theorem State.tachSample_stands (s : State) (k : Axle) (high : Bool) : StoreStands s (s.tachSample k high) := by
  unfold State.tachSample
  dsimp only
  split <;> exact .of_eq rfl rfl rfl

theorem State.openTachExpiry_stands (s : State) (k : Axle) : StoreStands s (s.openTachExpiry k) := by
  unfold State.openTachExpiry
  dsimp only
  split
  · exact .refl s
  · split
    · exact .of_eq rfl rfl rfl
    · exact (State.occur_stands _ _ _).after rfl rfl rfl

theorem State.zeroExpiry_stands (s : State) (k : Axle) : StoreStands s (s.zeroExpiry k) := by
  unfold State.zeroExpiry
  dsimp only
  split <;> exact .of_eq rfl rfl rfl

theorem State.stillExpiry_stands (s : State) : StoreStands s s.stillExpiry := by
  unfold State.stillExpiry
  split
  · exact .refl s
  · exact (State.evaluateMode_stands _).after rfl rfl rfl

theorem State.windowSpeed_stands (s : State) (k : Axle) : StoreStands s (s.windowSpeed k).2 := by
  unfold State.windowSpeed
  dsimp only
  split
  · exact (State.occur_stands _ _ _).after rfl rfl rfl
  · exact .of_eq rfl rfl rfl

theorem State.updateVref_stands (s : State) : StoreStands s s.updateVref := by
  unfold State.updateVref
  dsimp only
  split
  · exact .of_eq rfl rfl rfl
  · split <;> exact .of_eq rfl rfl rfl

theorem State.governOpen_stands (s : State) (k : Axle) (c : SpeedCase) : StoreStands s (s.governOpen k c) := by
  unfold State.governOpen
  dsimp only
  split
  · split <;> exact .of_eq rfl rfl rfl
  · exact .of_eq rfl rfl rfl

theorem State.governStill_stands (s : State) : StoreStands s s.governStill := by
  unfold State.governStill
  dsimp only
  split
  · split <;> exact .of_eq rfl rfl rfl
  · split
    · exact (State.evaluateMode_stands _).after rfl rfl rfl
    · exact .of_eq rfl rfl rfl

/-! The Slide Unit -/

theorem State.rederiveAction_stands (s : State) (t : Truck) : StoreStands s (s.rederiveAction t) := by
  unfold State.rederiveAction
  dsimp only
  split
  · exact .refl s
  · split
    · exact (State.count_stands _ 9).after rfl rfl rfl
    · exact .of_eq rfl rfl rfl

theorem State.limitCut_stands (s : State) (k : Axle) (n : Nat) : StoreStands s (s.limitCut k n) := by
  obtain ⟨b, h⟩ := s.limitCut_frame k n
  rw [h]
  exact .of_eq rfl rfl rfl

theorem State.actionCut_stands (s : State) (t : Truck) (a : Action) : StoreStands s (s.actionCut t a) := by
  obtain ⟨b, h⟩ := s.actionCut_frame t a
  rw [h]
  exact .of_eq rfl rfl rfl

theorem State.announce_stands (s : State) (k : Axle) (j : Judged) : StoreStands s (s.announce k j) := by
  unfold State.announce
  refine inAnyOrder_stands _ (fun f hf u => ?_) s
  rcases List.mem_append.mp hf with hf | hf
  · split at hf
    · rw [List.mem_singleton.mp hf]
      exact ((u.send_stands _ _).trans (State.count_stands _ (axleNo k))).trans (State.count_stands _ 7)
    · simp at hf
  · split at hf
    · rw [List.mem_singleton.mp hf]
      exact (u.send_stands _ _).trans (State.count_stands _ 8)
    · simp at hf

theorem State.evaluate_stands (s : State) (k : Axle) : StoreStands s (s.evaluate k) := by
  unfold State.evaluate
  extract_lets x v t c j s₁ old s₂
  have h₁ : StoreStands s s₁ := (State.announce_stands _ k j).after rfl rfl rfl
  have h₂ : StoreStands s s₂ := by
    by_cases h : j.axle.state = x.state
    · rw [show s₂ = s₁ from if_pos h]
      exact h₁
    · rw [show s₂ = s₁.rederiveAction t from if_neg h]
      exact h₁.trans (State.rederiveAction_stands _ t)
  split
  · refine h₂.trans (inAnyOrder_stands _ (fun f hf u => ?_) s₂)
    simp only [List.mem_cons, List.not_mem_nil, or_false] at hf
    rcases hf with rfl | rfl | rfl
    · exact u.limitCut_stands k x.limit
    · exact u.actionCut_stands t old
    · exact u.refreshLockout_stands k
  · exact (h₂.trans (State.limitCut_stands _ _ _)).trans (State.actionCut_stands _ _ _)

theorem State.windowExpiry_stands (s : State) (k : Axle) : StoreStands s (s.windowExpiry k) := by
  unfold State.windowExpiry
  split
  · exact .refl s
  · exact ((((s.windowSpeed_stands k).trans (State.updateVref_stands _)).trans
      (State.governOpen_stands _ k _)).trans (State.governStill_stands _)).trans (State.evaluate_stands _ k)

theorem State.dumpExpiry_stands (s : State) (t : Truck) : StoreStands s (s.dumpExpiry t) := by
  unfold State.dumpExpiry
  dsimp only
  split
  · exact .refl s
  · refine StoreStands.trans ?_ (State.count_stands _ 10)
    refine StoreStands.trans (StoreStands.trans ?_ (State.actionCut_stands _ t _)) (State.send_stands _ _ _)
    exact (State.rederiveAction_stands _ t).after rfl rfl rfl

theorem State.unlock_stands (s : State) (k : Axle) : StoreStands s (s.unlock k) := by
  unfold State.unlock
  refine StoreStands.trans (StoreStands.trans ?_ (State.refreshLockout_stands _ k)) (State.actionCut_stands _ _ _)
  exact (State.rederiveAction_stands _ _).after rfl rfl rfl

/-! The Link Interfaces -/

theorem State.postedLinkLost_stands (s : State) (l : LinkId) : StoreStands s (s.postedLinkLost l) := by
  obtain ⟨p, d, r, b, h⟩ := s.postedLinkLost_frame l
  rw [h]
  exact .of_eq rfl rfl rfl

theorem State.demandLinkLost_stands (s : State) (l : LinkId) : StoreStands s (s.demandLinkLost l) := by
  obtain ⟨d, r, b, x, h⟩ := s.demandLinkLost_frame l
  rw [h]
  exact .of_eq rfl rfl rfl

theorem State.refreshLinkLoss_stands (s : State) (l : LinkId) : StoreStands s (s.refreshLinkLoss l) := by
  obtain ⟨r, b, h⟩ := s.refreshLinkLoss_frame l
  rw [h]
  exact .of_eq rfl rfl rfl

theorem State.linkDown_stands (s : State) (l : LinkId) (detail : Nat) : StoreStands s (s.linkDown l detail) := by
  unfold State.linkDown
  dsimp only
  refine StoreStands.trans (StoreStands.trans ?_ (State.send_stands _ _ _)) (State.count_stands _ 11)
  refine (inAnyOrder_stands _ (fun f hf u => ?_) _).after rfl rfl rfl
  simp only [List.mem_cons, List.not_mem_nil, or_false] at hf
  rcases hf with rfl | rfl | rfl
  · exact u.postedLinkLost_stands l
  · exact u.demandLinkLost_stands l
  · exact u.refreshLinkLoss_stands l

theorem State.frameFailure_stands (s : State) (l : LinkId) : StoreStands s (s.frameFailure l) := by
  have fail : ∀ u : State, StoreStands u (u.linkFail l) := by
    intro u
    unfold State.linkFail
    dsimp only
    split
    · exact .refl u
    all_goals
      split
      · exact .of_eq rfl rfl rfl
      · exact u.linkDown_stands l 2
  unfold State.frameFailure
  dsimp only
  split
  · exact .of_eq rfl rfl rfl
  · refine StoreStands.trans ?_ (fail _)
    exact (State.count_stands _ 18).after rfl rfl rfl

theorem State.arrive_stands (s : State) (l : LinkId) : StoreStands s (s.arrive l) := by
  obtain ⟨r, b, y, h⟩ := s.arrive_frame l
  rw [h]
  exact .of_eq rfl rfl rfl

theorem Answer.conclude_stands (x : Answer) (kind : Byte) (r : Req) : StoreStands x.state (x.conclude kind r) := by
  unfold Answer.conclude
  split
  · unfold State.respond
    split <;> exact .of_eq rfl rfl rfl
  · exact .refl _

/-! Parameters -/

theorem State.applyParam_stands (s : State) (v : Nat) (i : ParamId) : StoreStands s (s.applyParam v i) := by
  cases i
  case tFresh => exact (inAnyOrder_map_stands _ _ (fun i u => u.freshExpiry_stands i) _).after rfl rfl rfl
  case tHold =>
    refine (inAnyOrder_stands _ (fun f hf => ?_) _).after rfl rfl rfl
    rcases List.mem_append.mp hf with hf | hf
    · obtain ⟨i, _, rfl⟩ := List.mem_map.mp hf
      exact fun u => u.holdExpiry_stands i
    · obtain ⟨i, _, rfl⟩ := List.mem_map.mp hf
      exact fun u => u.goodHoldExpiry_stands i
  case dMax | penEffort => exact s.demandChanged_stands
  case pServiceMax =>
    refine forEach_stands _ _ (fun t u => ?_) s
    split
    · exact u.reduceTruckByTable_stands t _
    · exact .refl u
  case pEmer =>
    refine forEach_stands _ _ (fun t u => ?_) s
    exact .of_eq rfl rfl rfl
  case shortTime =>
    unfold State.applyParam State.applyShortTime
    dsimp only
    split
    · exact (State.shortfallExpiry_stands _).after rfl rfl rfl
    · exact .of_eq rfl rfl rfl
  case devTime => exact inAnyOrder_map_stands _ _ (fun t u => u.deviationAtOnce_stands t) s
  case zeroTime =>
    refine StoreStands.trans ?_ (inAnyOrder_map_stands _ _ (fun k u => u.zeroExpiry_stands k) _)
    refine forEach_stands _ _ (fun k u => ?_) s
    exact .of_eq rfl rfl rfl
  case openTime =>
    refine StoreStands.trans ?_ (inAnyOrder_map_stands _ _ (fun k u => u.openTachExpiry_stands k) _)
    refine forEach_stands _ _ (fun k u => ?_) s
    exact .of_eq rfl rfl rfl
  case stillTime =>
    unfold State.applyParam State.applyStillTime
    dsimp only
    split
    · exact (State.stillExpiry_stands _).after rfl rfl rfl
    · exact .of_eq rfl rfl rfl
  case lockCount => exact .of_eq rfl rfl rfl
  case linkTimeout l =>
    unfold State.applyParam State.applyLinkTimeout
    dsimp only
    split
    · exact (State.linkDown_stands _ l 1).after rfl rfl rfl
    · exact .of_eq rfl rfl rfl
  all_goals exact .refl s

theorem State.writeParam_stands (s : State) (i : ParamId) (v : Nat) : StoreStands s (s.writeParam i v) :=
  (State.applyParam_stands _ v i).after rfl rfl rfl

end Sys2Proof.Machine
end

section
/-! PROOFS. The power-on scan leaves working copies that agree, from whatever the memory holds (R157 to R159). -/

namespace Sys2Proof.Machine

/-! What the steps of the scan leave of the recorder -/

/-- Outside the working copies, FREEZE and the next sequence number a step of the scan only drops what a DAMAGED slot
had (R156, R158). -/
structure ScanStep (s t : State) : Prop where
  phase : t.phase = s.phase
  capture : s.inc.capture = none → t.inc.capture = none
  armed : (∀ i, s.inc.armed.get i = false) → ∀ i, t.inc.armed.get i = false
  ring : t.inc.ring = s.inc.ring
  counts : s.CountsInRange → t.CountsInRange

theorem ScanStep.trans {s t u : State} (h : ScanStep s t) (g : ScanStep t u) : ScanStep s u :=
  ⟨g.phase.trans h.phase, g.capture ∘ h.capture, g.armed ∘ h.armed, g.ring.trans h.ring, g.counts ∘ h.counts⟩

theorem StoreStands.scanStep {s t : State} (h : StoreStands s t) : ScanStep s t :=
  ⟨h.phase, fun e => h.inc ▸ e, fun e => h.inc ▸ e, congrArg Recorder.ring h.inc, h.counts⟩

theorem ScanStep.refl (s : State) : ScanStep s s := (StoreStands.refl s).scanStep

theorem State.setCopy_scanStep (s : State) (i : Slot) (x : SlotCopy) : ScanStep s (s.setCopy i x) :=
  ⟨rfl, id, id, rfl, id⟩

theorem State.scanDamage_scanStep (s : State) (i : Slot) (six : Checked) : ScanStep s (s.scanDamage i six) where
  phase := rfl
  capture h := by
    change (if _ then none else s.inc.capture) = none
    rw [h]
    exact ite_self _
  armed h j := by
    change (s.inc.armed.set i false).get j = false
    rw [PerSlot.get_set, h j]
    exact ite_self _
  ring := rfl
  counts := id

/-- The working copies after a step of the scan on slot `i`: its own is the one given, the others stand. -/
def State.CopySet (s t : State) (i : Slot) (x : SlotCopy) : Prop :=
  ∀ j, t.inc.slots.get j = if j = i then x else s.inc.slots.get j

theorem State.setCopy_copySet {s s₁ : State} (h : s₁.inc = s.inc) (i : Slot) (x : SlotCopy) :
    s.CopySet (s₁.setCopy i x) i x := by
  intro j
  change (s₁.inc.slots.set i x).get j = _
  rw [PerSlot.get_set, h]

theorem State.scanDamage_copySet {s s₁ : State} (h : s₁.inc = s.inc) (i : Slot) (six : Checked) :
    s.CopySet (s₁.scanDamage i six) i ⟨.damaged, none⟩ := by
  intro j
  change ((s₁.inc.slots.set i _).set i _).get j = _
  rw [PerSlot.set_set, PerSlot.get_set, h]

/-! Classification (R158) -/

/-- A working copy as the scan's classification leaves it: not CAPTURING, with a number only where it is UNREAD or
READ, and then one below the last. -/
structure SlotCopy.Classified (x : SlotCopy) : Prop where
  state : x.state ≠ .capturing
  seq : ∀ n, x.seq = some n → (x.state = .unread ∨ x.state = .read) ∧ n ≠ lastSeq

theorem SlotCopy.Classified.unnumbered {x : SlotState} (h : x ≠ .capturing) : (⟨x, none⟩ : SlotCopy).Classified :=
  ⟨h, fun _ e => by cases e⟩

theorem SlotCopy.Classified.numbered {x : SlotState} {n : Word} (h : x = .unread ∨ x = .read) (hn : n ≠ lastSeq) :
    (⟨x, some n⟩ : SlotCopy).Classified :=
  ⟨by rcases h with rfl | rfl <;> exact nofun, fun _ e => ⟨h, Option.some.inj e ▸ hn⟩⟩

/-- A header that is not malformed has a number that an incident may have (R158). -/
theorem goodSeq_of_not_malformed {cs : List Checked} (h : ¬malformed cs = true) : dataAt cs 0 ≠ lastSeq := by
  simp only [malformed, goodSeq, Bool.or_eq_true, not_or] at h
  simpa using And.right (by simpa using h.1.1.1.1.1.1 : ¬dataAt cs 0 = 0 ∧ ¬dataAt cs 0 = lastSeq)

/-- A step of the scan sets slot `i` to a classified copy. -/
theorem State.scanSlot_classifies (i : Slot) (s : State) :
    ScanStep s (s.scanSlot i) ∧ ∃ x : SlotCopy, x.Classified ∧ s.CopySet (s.scanSlot i) i x := by
  unfold State.scanSlot
  have hr := s.readWords_stands (headerAddrs i)
  generalize s.readWords (headerAddrs i) = x at hr ⊢
  obtain ⟨cs, s₁⟩ := x
  dsimp only at hr ⊢
  have damaged : ∀ six, ScanStep s (s₁.scanDamage i six) ∧
      ∃ y : SlotCopy, y.Classified ∧ s.CopySet (s₁.scanDamage i six) i y := fun six =>
    ⟨hr.scanStep.trans (s₁.scanDamage_scanStep i six), _, .unnumbered (by decide),
      State.scanDamage_copySet hr.inc i six⟩
  have copied : ∀ (s₂ : State) (x : SlotCopy), StoreStands s s₂ → x.Classified →
      ScanStep s (s₂.setCopy i x) ∧ ∃ y : SlotCopy, y.Classified ∧ s.CopySet (s₂.setCopy i x) i y :=
    fun s₂ x h hx => ⟨h.scanStep.trans (s₂.setCopy_scanStep i x), x, hx, State.setCopy_copySet h.inc i x⟩
  split
  · exact damaged _
  · split
    · exact damaged _
    · exact copied _ ⟨.free, none⟩ hr (.unnumbered (by decide))
    · exact copied _ ⟨.damaged, none⟩ hr (.unnumbered (by decide))
    · split
      · exact damaged _
      · rename_i hm
        exact copied _ ⟨.unread, some (dataAt cs 0)⟩ (hr.trans (s₁.storeWord_stands _ _))
          (.numbered (.inl rfl) (goodSeq_of_not_malformed hm))
    · split
      · exact damaged _
      · rename_i hm
        exact copied _ ⟨.unread, some (dataAt cs 0)⟩ hr (.numbered (.inl rfl) (goodSeq_of_not_malformed hm))
    · split
      · exact damaged _
      · rename_i hm
        exact copied _ ⟨.read, some (dataAt cs 0)⟩ hr (.numbered (.inr rfl) (goodSeq_of_not_malformed hm))

/-- Hand-offs of which each establishes its own property, and which leave those of the others, establish all of
them. -/
theorem forEach_establishes {α : Type} (P : α → State → Prop) (R : State → Prop) (f : α → State → State)
    (hR : ∀ x u, R u → R (f x u)) (own : ∀ x u, R u → P x (f x u))
    (other : ∀ x y u, R u → P y u → P y (f x u)) : ∀ (xs : List α) (s : State), R s →
    ∀ y, y ∈ xs ∨ P y s → P y (forEach xs f s) := by
  intro xs
  induction xs with
  | nil => exact fun s _ y h => h.resolve_left (by simp)
  | cons x xs ih =>
    intro s hs y h
    refine ih (f x s) (hR x s hs) y ?_
    rcases h with h | h
    · rcases List.mem_cons.mp h with rfl | h
      · exact .inr (own y s hs)
      · exact .inl h
    · exact .inr (other x y s hs h)

theorem forEach_scanStep {α : Type} (xs : List α) (f : α → State → State) (h : ∀ x u, ScanStep u (f x u))
    (s : State) : ScanStep s (forEach xs f s) :=
  forEach_keeps (ScanStep s) xs f (fun x u hu => hu.trans (h x u)) s (.refl s)

/-- Every working copy is classified after the first pass of the scan. -/
theorem scanSlots_classified (s : State) (i : Slot) :
    ((forEach allSlots State.scanSlot s).inc.slots.get i).Classified := by
  refine forEach_establishes (fun i u => (u.inc.slots.get i).Classified) (fun _ => True) State.scanSlot
    (fun _ _ _ => trivial) (fun i u _ => ?_) (fun i j u _ hj => ?_) allSlots s trivial i (.inl (mem_allSlots i))
  · obtain ⟨_, x, hx, hc⟩ := State.scanSlot_classifies i u
    rw [hc i, if_pos rfl]
    exact hx
  · obtain ⟨_, x, hx, hc⟩ := State.scanSlot_classifies i u
    rw [hc j]
    split
    · exact hx
    · exact hj

/-! Repeated numbers (R158) -/

theorem State.seqHeld_iff (s : State) (w : Word) (among : Slot → Bool) :
    s.seqHeld w among = true ↔ ∃ j, among j = true ∧ (s.inc.slots.get j).seq = some w := by
  simp only [State.seqHeld, List.any_eq_true, Bool.and_eq_true, decide_eq_true_eq]
  exact ⟨fun ⟨j, _, h⟩ => ⟨j, h⟩, fun ⟨j, h⟩ => ⟨j, mem_allSlots j, h⟩⟩

/-- Every working copy is classified. -/
def State.AllClassified (s : State) : Prop := ∀ i, (s.inc.slots.get i).Classified

/-- No lower-numbered slot holds the number of slot `i`. -/
def State.FirstHolder (i : Slot) (s : State) : Prop :=
  ∀ j n, slotNo j < slotNo i → (s.inc.slots.get i).seq = some n → (s.inc.slots.get j).seq ≠ some n

theorem State.scanRepeat_scanStep (i : Slot) (s : State) : ScanStep s (s.scanRepeat i) := by
  unfold State.scanRepeat
  dsimp only
  split
  · exact s.scanDamage_scanStep i _
  · exact .refl s

/-- The second pass takes a slot's number or leaves every copy. -/
theorem State.scanRepeat_cases (i : Slot) (s : State) :
    s.CopySet (s.scanRepeat i) i ⟨.damaged, none⟩ ∨ (s.scanRepeat i = s ∧
      (s.AllClassified → s.FirstHolder i)) := by
  unfold State.scanRepeat
  dsimp only
  split
  · exact .inl (State.scanDamage_copySet rfl i _)
  · rename_i h
    refine .inr ⟨rfl, fun hc j n hj hi e => h ?_⟩
    have holds : ∀ k, (s.inc.slots.get k).seq = some n → s.holdsIncident k = true := fun k hk => by
      rcases ((hc k).seq n hk).1 with h | h <;> simp [State.holdsIncident, State.slotState, h]
    rw [Bool.and_eq_true, State.seqHeld_iff]
    refine ⟨holds i hi, j, ?_, ?_⟩
    · rw [holds j e, decide_eq_true hj]
      rfl
    · rw [e, State.slotSeq, hi]
      rfl

theorem State.scanRepeat_classified (i : Slot) (s : State) (h : s.AllClassified) : (s.scanRepeat i).AllClassified := by
  rcases State.scanRepeat_cases i s with hc | ⟨he, _⟩
  · intro j
    rw [hc j]
    split
    · exact .unnumbered (by decide)
    · exact h j
  · rw [he]
    exact h

/-- After the second pass no two slots hold the same number. -/
theorem scanRepeats_firstHolder (s : State) (h : s.AllClassified) (i : Slot) :
    (forEach allSlots State.scanRepeat s).FirstHolder i := by
  refine forEach_establishes State.FirstHolder State.AllClassified State.scanRepeat State.scanRepeat_classified
    (fun i u hu => ?_) (fun i j u _ hj => ?_) allSlots s h i (.inl (mem_allSlots i))
  · rcases State.scanRepeat_cases i u with hc | ⟨he, hf⟩
    · intro j n _ hi
      rw [hc i, if_pos rfl] at hi
      cases hi
    · rw [he]
      exact hf hu
  · rcases State.scanRepeat_cases i u with hc | ⟨he, _⟩
    · intro k n hk
      rw [hc j, hc k]
      split <;> split
      · exact nofun
      · exact nofun
      · exact nofun
      · exact hj k n hk
    · rw [he]
      exact hj

/-! Recovered numbers (R158, R159) -/

/-- Working copies as the scan leaves them: none CAPTURING, no FREE one with a number, every number below the last,
and no two of them the same. -/
structure State.Numbered (s : State) : Prop where
  state : ∀ i, (s.inc.slots.get i).state ≠ .capturing
  seq : ∀ i n, (s.inc.slots.get i).seq = some n → (s.inc.slots.get i).state ≠ .free ∧ n ≠ lastSeq
  distinct : ∀ i j n, (s.inc.slots.get i).seq = some n → (s.inc.slots.get j).seq = some n → i = j

theorem State.numbered_of_firstHolder {s : State} (hc : s.AllClassified) (hf : ∀ i, s.FirstHolder i) : s.Numbered where
  state i := (hc i).state
  seq i n h := by
    obtain ⟨hs, hn⟩ := (hc i).seq n h
    refine ⟨fun e => ?_, hn⟩
    rcases hs with hs | hs <;> rw [e] at hs <;> cases hs
  distinct i j n hi hj := by
    rcases Nat.lt_trichotomy (slotNo i) (slotNo j) with h | h | h
    · exact absurd hi (hf j i n h hj)
    · exact slotNo_injective h
    · exact absurd hj (hf i j n h hi)

theorem State.scanDamagedSeq_scanStep (i : Slot) (s : State) : ScanStep s (s.scanDamagedSeq i) := by
  unfold State.scanDamagedSeq
  dsimp only
  split
  · exact s.setCopy_scanStep i _
  · exact .refl s

theorem State.scanDamagedSeq_numbered (i : Slot) (s : State) (h : s.Numbered) : (s.scanDamagedSeq i).Numbered := by
  unfold State.scanDamagedSeq
  dsimp only
  split
  · rename_i hq
    simp only [Bool.and_eq_true, Bool.not_eq_true', goodSeq, decide_eq_true_eq] at hq
    obtain ⟨⟨_, _, hl⟩, hn⟩ := hq
    have free : ∀ j, (s.inc.slots.get j).seq ≠ some (checkWord (s.mem.read (slotAddr i 0))).data := by
      intro j hj
      exact Bool.false_ne_true (hn.symm.trans ((s.seqHeld_iff _ _).mpr ⟨j, rfl, hj⟩))
    have hc : s.CopySet (s.setCopy i ⟨.damaged, some (checkWord (s.mem.read (slotAddr i 0))).data⟩) i _ :=
      State.setCopy_copySet rfl i _
    refine ⟨fun j => ?_, fun j n => ?_, fun j k n => ?_⟩
    · rw [hc j]
      split
      · exact nofun
      · exact h.state j
    · rw [hc j]
      split
      · exact fun e => ⟨nofun, Option.some.inj e ▸ hl⟩
      · exact h.seq j n
    · rw [hc j, hc k]
      split <;> split <;> intro hj hk
      · subst_vars; rfl
      · exact absurd (hk.trans hj.symm) (free k)
      · exact absurd (hj.trans hk.symm) (free j)
      · exact h.distinct j k n hj hk
  · exact h

theorem foldl_max_le_iff (xs : List Nat) : ∀ a b : Nat, xs.foldl max a ≤ b ↔ a ≤ b ∧ ∀ x ∈ xs, x ≤ b := by
  induction xs with
  | nil => simp
  | cons x xs ih => simp [ih, and_assoc]

/-- The highest number held bounds the numbers held and is below the last (R135, R159). -/
theorem State.highestSeq_le_iff {s : State} (h : s.Numbered) (b : Nat) :
    s.highestSeq ≤ b ↔ ∀ i n, (s.inc.slots.get i).seq = some n → n.toNat ≤ b := by
  have shown : ∀ i, (if s.slotState i = .free then 0 else (s.slotSeq i).toNat) ≤ b ↔
      ∀ n, (s.inc.slots.get i).seq = some n → n.toNat ≤ b := by
    intro i
    rw [State.slotState, State.slotSeq]
    cases hs : (s.inc.slots.get i).seq with
    | none => simp
    | some n => simp [(h.seq i n hs).1]
  simp only [State.highestSeq, foldl_max_le_iff, Nat.zero_le, true_and, List.forall_mem_map]
  exact ⟨fun g i => (shown i).mp (g i (mem_allSlots i)), fun g i _ => (shown i).mpr (g i)⟩

theorem State.highestSeq_le {s : State} (h : s.Numbered) : s.highestSeq ≤ 4294967294 := by
  refine (s.highestSeq_le_iff h _).mpr fun i n hi => ?_
  have hl : n.toNat ≠ 4294967295 := fun e => (h.seq i n hi).2 (BitVec.eq_of_toNat_eq e)
  have := n.isLt
  omega

/-- The recovered next sequence number is above every number held, and the working copies stand (R159). -/
theorem State.scanNextSeq_numbered (s : State) (h : s.Numbered) :
    ScanStep s s.scanNextSeq ∧ s.scanNextSeq.inc.slots = s.inc.slots ∧
      s.highestSeq < s.scanNextSeq.inc.nextSeq.toNat := by
  unfold State.scanNextSeq
  have hr := s.readWord_stands (retentionAddr 1)
  generalize s.readWord (retentionAddr 1) = x at hr ⊢
  obtain ⟨one, s₁⟩ := x
  dsimp only at hr ⊢
  have hw : s.highestSeq < (BitVec.ofNat 32 (if one.cls = .uncorrectable then s.highestSeq + 1
      else max (s.highestSeq + 1) one.data.toNat)).toNat := by
    have := s.highestSeq_le h
    have := one.data.isLt
    rw [BitVec.toNat_ofNat, Nat.mod_eq_of_lt (by split <;> omega)]
    split <;> omega
  generalize BitVec.ofNat 32 _ = w at hw ⊢
  have step : ScanStep s (s₁.setInc { s₁.inc with nextSeq := w }) := hr.scanStep.trans ⟨rfl, id, id, rfl, id⟩
  have slots : s₁.inc.slots = s.inc.slots := congrArg Recorder.slots hr.inc
  split
  · exact ⟨step.trans (State.storeWord_stands _ _ _).scanStep, slots, hw⟩
  · exact ⟨step, slots, hw⟩

theorem State.scanFreeze_scanStep (s : State) :
    ScanStep s s.scanFreeze ∧ s.scanFreeze.inc.slots = s.inc.slots ∧ s.scanFreeze.inc.nextSeq = s.inc.nextSeq := by
  unfold State.scanFreeze
  have hr := s.readWord_stands (retentionAddr 2)
  generalize s.readWord (retentionAddr 2) = x at hr ⊢
  obtain ⟨two, s₁⟩ := x
  dsimp only at hr ⊢
  have step : ∀ b, ScanStep s (s₁.setInc { s₁.inc with freeze := b }) := fun b =>
    hr.scanStep.trans ⟨rfl, id, id, rfl, id⟩
  have slots : s₁.inc.slots = s.inc.slots := congrArg Recorder.slots hr.inc
  have next : s₁.inc.nextSeq = s.inc.nextSeq := congrArg Recorder.nextSeq hr.inc
  split
  · exact ⟨(step _).trans (State.storeWord_stands _ _ _).scanStep, slots, next⟩
  · exact ⟨step _, slots, next⟩

/-! The whole scan -/

/-- What the scan hands over: working copies that agree, and a next sequence number above every number held. -/
structure ScanDone (s t : State) : Prop extends ScanStep s t where
  numbered : t.Numbered
  above : ∀ i n, (t.inc.slots.get i).seq = some n → n.toNat < t.inc.nextSeq.toNat
  positive : 0 < t.inc.nextSeq.toNat

theorem State.Numbered.of_slots {s t : State} (h : s.Numbered) (e : t.inc.slots = s.inc.slots) : t.Numbered :=
  ⟨e ▸ h.state, e ▸ h.seq, e ▸ h.distinct⟩

theorem State.scanIntact_done (s : State) : ScanDone s s.scanIntact := by
  unfold State.scanIntact
  extract_lets s₁ s₂ s₃
  have h₁ : ScanStep s s₁ := forEach_scanStep _ _ (fun i u => (State.scanSlot_classifies i u).1) s
  have h₂ : ScanStep s s₂ := h₁.trans (forEach_scanStep _ _ State.scanRepeat_scanStep s₁)
  have h₃ : ScanStep s s₃ := h₂.trans (forEach_scanStep _ _ State.scanDamagedSeq_scanStep s₂)
  have c₁ : s₁.AllClassified := scanSlots_classified s
  have c₂ : s₂.AllClassified :=
    forEach_keeps State.AllClassified _ _ (fun i u hu => u.scanRepeat_classified i hu) s₁ c₁
  have n₂ : s₂.Numbered := State.numbered_of_firstHolder c₂ (scanRepeats_firstHolder s₁ c₁)
  have n₃ : s₃.Numbered := forEach_keeps State.Numbered _ _ (fun i u hu => u.scanDamagedSeq_numbered i hu) s₂ n₂
  obtain ⟨h₄, slots₄, hlt⟩ := s₃.scanNextSeq_numbered n₃
  obtain ⟨h₅, slots₅, next₅⟩ := s₃.scanNextSeq.scanFreeze_scanStep
  have slots : s₃.scanNextSeq.scanFreeze.inc.slots = s₃.inc.slots := slots₅.trans slots₄
  have next : s₃.highestSeq < s₃.scanNextSeq.scanFreeze.inc.nextSeq.toNat := by rw [next₅]; exact hlt
  refine ⟨(h₃.trans h₄).trans (h₅.trans ⟨rfl, id, id, rfl, id⟩), n₃.of_slots slots, fun i n hi => ?_,
    Nat.zero_lt_of_lt next⟩
  have hi' : (s₃.scanNextSeq.scanFreeze.inc.slots.get i).seq = some n := hi
  rw [slots] at hi'
  exact lt_of_le_of_lt ((s₃.highestSeq_le_iff n₃ _).mp (le_refl _) i n hi') next

theorem State.scanLost_done (s : State) : ScanDone s s.scanLost := by
  unfold State.scanLost
  extract_lets s₁ s₂
  have h₁ : StoreStands s s₁ := forEach_stands _ _ (fun i u => u.storeWords_stands _ _) s
  have h₂ : StoreStands s s₂ :=
    ((h₁.trans (State.storeWord_stands _ _ _)).trans (State.storeWord_stands _ _ _)).trans
      (State.storeWord_stands _ _ _)
  clear_value s₂
  have free : ∀ i, ((PerSlot.ofFn fun _ => (⟨.free, none⟩ : SlotCopy)).get i) = ⟨.free, none⟩ := fun i =>
    PerSlot.get_ofFn _ i
  refine ⟨h₂.scanStep.trans ⟨rfl, id, id, rfl, id⟩, ⟨fun i => ?_, fun i n hi => ?_, fun i j n hi => ?_⟩,
    fun i n hi => ?_, Nat.one_pos⟩
  · exact (congrArg SlotCopy.state (free i)).trans_ne (by decide)
  all_goals exact nomatch (congrArg SlotCopy.seq (free i)).symm.trans hi

theorem State.scan_done (s : State) : ScanDone s s.scan := by
  unfold State.scan
  have hr := (s.readWord_stands (retentionAddr 0)).scanStep
  have after : ∀ t, ScanDone (s.readWord (retentionAddr 0)).2 t → ScanDone s t := fun t h =>
    { h with toScanStep := hr.trans h.toScanStep }
  dsimp only
  split
  · exact after _ (State.scanIntact_done _)
  · exact after _ (State.scanLost_done _)

/-! The resets -/

/-- The recorder's copies agree once the part has gone into service from a scan (R136, R146, R151, R159). -/
theorem ScanDone.enterService_storeKept {s u : State} (h : ScanDone s u) (hp : s.phase = .scanning) :
    StoreKept s u.enterService := by
  refine ⟨fun g => h.counts g, fun g => ?_⟩
  obtain ⟨hc, ha⟩ := g.scan hp
  refine ⟨fun _ i => iff_of_false (h.numbered.state i) ?_, fun _ i hi => ?_, fun e => ?_, h.numbered.distinct,
    h.above, h.positive, ?_⟩
  · rintro ⟨c, e, _⟩
    exact nomatch (h.capture hc).symm.trans e
  · exact absurd hi (Bool.eq_false_iff.mp (h.armed ha i))
  · exact nomatch e
  · exact (congrArg List.length h.ring).trans_le g.ring

/-- The recorder's copies agree at the start of a warm restart (R150). -/
theorem RecorderConsistent.restarted {u t : State} {detail : Byte} (h : RecorderConsistent u)
    (alive : u.phase.alive = true) (phase : t.phase = .restarting) (inc : t.inc = u.inc.restart detail) :
    RecorderConsistent t := by
  refine ⟨fun _ => ?_, fun _ i hi => ?_, fun e => ?_, ?_, ?_, ?_, ?_⟩
  · rw [inc]
    exact h.capturing alive
  · rw [inc] at hi
    exact absurd hi (Bool.eq_false_iff.mp (PerSlot.get_ofFn _ i))
  · rw [phase] at e
    cases e
  · rw [inc]
    exact h.distinct
  · rw [inc]
    exact h.next
  · rw [inc]
    exact h.positive
  · rw [inc]
    exact Nat.zero_le 64

theorem State.truncate_phase (s : State) : s.truncate.phase = s.phase := by
  unfold State.truncate
  split
  · rfl
  · rename_i c _
    have hr := (s.readWord_stands (slotAddr c.slot 6)).phase
    generalize s.readWord (slotAddr c.slot 6) = x at hr ⊢
    obtain ⟨six, s₁⟩ := x
    dsimp only at hr ⊢
    split <;> exact hr

theorem State.warmRestart_storeKept (s : State) (detail : Byte) (hp : s.phase = .running) :
    StoreKept s (s.warmRestart detail) :=
  ⟨fun h => s.truncate_storeKept.counts h, fun h => (s.truncate_storeKept.recorder h).restarted
    (by rw [s.truncate_phase, hp]; rfl) (detail := detail) rfl rfl⟩

theorem State.scanComplete_storeKept (s : State) (wrst : Bool) : StoreKept s (s.scanComplete wrst) := by
  unfold State.scanComplete
  split
  · rename_i hp
    have h := s.scan_done.enterService_storeKept hp
    have running : s.scan.enterService.phase = .running := rfl
    dsimp only
    generalize s.scan.enterService = u at h running ⊢
    split
    · exact h.trans (u.warmRestart_storeKept fromWrst running)
    · exact h
  all_goals exact .refl s

theorem State.wrstAssert_storeKept (s : State) : StoreKept s s.wrstAssert := by
  unfold State.wrstAssert
  split
  · exact s.warmRestart_storeKept fromWrst ‹_›
  all_goals exact .refl s

theorem State.restartComplete_storeKept (s : State) : StoreKept s s.restartComplete := by
  unfold State.restartComplete
  split
  · rename_i hp
    have alive : s.phase.alive = true := by rw [hp]; rfl
    exact .of_recorder rfl fun h => ⟨fun _ => h.capturing alive, fun _ => h.armed alive, fun e => (nomatch e),
      h.distinct, h.next, h.positive, h.ring⟩
  all_goals exact .refl s

/-- The recorder's copies agree while the part is stopped, whatever becomes of its capture. -/
theorem RecorderConsistent.stopped {s t : State} (h : RecorderConsistent s) (phase : t.phase.alive = false)
    (slots : t.inc.slots = s.inc.slots) (next : t.inc.nextSeq = s.inc.nextSeq) (ring : t.inc.ring = s.inc.ring) :
    RecorderConsistent t where
  capturing ha := absurd ha (by rw [phase]; decide)
  armed ha := absurd ha (by rw [phase]; decide)
  scan e := absurd phase (by rw [e]; decide)
  distinct := slots ▸ h.distinct
  next := by rw [slots, next]; exact h.next
  positive := next ▸ h.positive
  ring := ring ▸ h.ring

theorem State.porstAssert_storeKept (s : State) : StoreKept s s.porstAssert := by
  unfold State.porstAssert
  dsimp only
  split
  · rename_i hp
    exact .of_recorder rfl fun h => h.stopped (by change s.phase.alive = false; rw [hp]; rfl) rfl rfl rfl
  all_goals exact .of_recorder rfl fun h => h.stopped rfl rfl rfl rfl

theorem State.powerLoss_storeKept (s : State) : StoreKept s s.powerLoss := by
  unfold State.powerLoss State.retain
  split <;> exact .of_recorder rfl fun h => h.stopped rfl rfl rfl rfl

theorem State.retentionLoss_stands (s : State) : StoreStands s s.retentionLoss := by
  unfold State.retentionLoss State.retain
  split
  · split <;> exact .of_eq rfl rfl rfl
  all_goals exact .of_eq rfl rfl rfl

/-- The recorder's copies agree at its power-on state (R131, R151). -/
theorem RecorderConsistent.of_reset {t : State} (inc : t.inc = .reset) : RecorderConsistent t := by
  have slots : ∀ i, t.inc.slots.get i = ⟨.free, none⟩ := fun i => by rw [inc]; exact PerSlot.get_ofFn _ i
  have armed : ∀ i, t.inc.armed.get i = false := fun i => by rw [inc]; exact PerSlot.get_ofFn _ i
  have capture : t.inc.capture = none := by rw [inc]; rfl
  refine ⟨fun _ i => ?_, fun _ i hi => ?_, fun _ => ⟨capture, armed⟩, fun i j n hi => ?_, fun i n hi => ?_, ?_, ?_⟩
  · rw [slots, capture]
    simp
  · exact absurd hi (Bool.eq_false_iff.mp (armed i))
  · rw [slots] at hi
    cases hi
  · rw [slots] at hi
    cases hi
  · rw [inc]
    decide
  · rw [inc]
    decide

theorem State.powerOn_storeKept (s : State) : StoreKept s s.powerOn :=
  ⟨fun _ n => by cases n <;> exact Nat.zero_le _, fun _ => .of_reset rfl⟩

end Sys2Proof.Machine
end

section
/-! PROOFS. Every step keeps the store sound (O57). -/

namespace Sys2Proof.Machine

/-! Requests and events -/

/-- What a request's own rule keeps in service, its whole service keeps (R173, R175, R179). -/
theorem State.serve_storeKept (s : State) (kind : Byte) (r : Req) (body : State → Answer)
    (h : ∀ u : State, u.phase = .running → StoreKept u (body u).state) : StoreKept s (s.serve kind r body) := by
  have take : ∀ u : State, u.phase = .running → StoreKept u (u.take kind r body).state := by
    intro u hu
    unfold State.take
    split
    · exact .refl u
    · split
      · exact .refl u
      · exact h u hu
  unfold State.serve
  split
  · rename_i hs
    split
    · exact (StoreStands.of_eq rfl rfl rfl : StoreStands s (s.setPort _ _)).kept
    · have hp : s.phase = .running := of_decide_eq_true hs
      have arrived := s.arrive_stands r.link
      exact (arrived.kept.trans (take _ (arrived.phase.trans hp))).trans (Answer.conclude_stands _ kind r).kept
  · exact .refl s

theorem State.serve_stands_storeKept (s : State) (kind : Byte) (r : Req) (body : State → Answer)
    (h : ∀ u : State, StoreStands u (body u).state) : StoreKept s (s.serve kind r body) :=
  s.serve_storeKept kind r body fun u _ => (h u).kept

theorem State.ifInService_storeKept (s : State) (f : State → State)
    (h : s.phase = .running → StoreKept s (f s)) : StoreKept s (s.ifInService f) := by
  unfold State.ifInService
  split
  · exact h (of_decide_eq_true ‹_›)
  · exact .refl s

theorem State.expire_storeKept (s : State) (c : Instr) (f : State → State) (h : ∀ u, StoreStands u (f u)) :
    StoreKept s (s.expire c f) := by
  refine s.ifInService_storeKept _ fun _ => ?_
  split
  · exact (h s).kept
  · exact .refl s

/-! The answers of the requests -/

theorem atStandstill_stands (u : State) (x : Answer) (h : StoreStands u x.state) :
    StoreStands u (atStandstill u x).state := by
  unfold atStandstill
  split
  · exact h
  · exact .refl u

theorem modeAnswer_stands (r : Req) (u : State) : StoreStands u (modeAnswer r u).state := by
  unfold modeAnswer
  split
  · exact .refl u
  · exact u.maintAsk_stands _ _

theorem writeResAnswer_stands (r : Req) (u : State) : StoreStands u (writeResAnswer r u).state := by
  unfold writeResAnswer
  split
  · split
    · exact .refl u
    · split
      · exact .refl u
      · exact u.writeResource_stands _ _ _
  · exact .refl u

theorem readResAnswer_stands (r : Req) (u : State) : StoreStands u (readResAnswer r u).state := by
  unfold readResAnswer
  split <;> exact .refl u

theorem readAllocAnswer_stands (r : Req) (u : State) : StoreStands u (readAllocAnswer r u).state := by
  unfold readAllocAnswer
  split <;> exact .refl u

theorem readStatusAnswer_stands (r : Req) (u : State) : StoreStands u (readStatusAnswer r u).state := by
  unfold readStatusAnswer
  split <;> exact .refl u

theorem readAxleAnswer_stands (r : Req) (u : State) : StoreStands u (readAxleAnswer r u).state := by
  unfold readAxleAnswer
  split <;> exact .refl u

theorem readParamAnswer_stands (r : Req) (u : State) : StoreStands u (readParamAnswer r u).state := by
  unfold readParamAnswer
  split <;> exact .refl u

theorem readCounterAnswer_stands (r : Req) (u : State) : StoreStands u (readCounterAnswer r u).state := by
  unfold readCounterAnswer
  split <;> exact .refl u

theorem writeParamAnswer_stands (r : Req) (u : State) : StoreStands u (writeParamAnswer r u).state := by
  unfold writeParamAnswer
  split
  · exact .refl u
  · split
    · exact .refl u
    · split
      · exact .refl u
      · exact u.writeParam_stands _ _

theorem setMaskAnswer_stands (r : Req) (u : State) : StoreStands u (setMaskAnswer r u).state := by
  unfold setMaskAnswer
  split
  · exact .refl u
  · exact .of_eq rfl rfl rfl

theorem clearExcAnswer_stands (r : Req) (u : State) : StoreStands u (clearExcAnswer r u).state := by
  unfold clearExcAnswer
  split
  · exact .refl u
  · exact .of_eq rfl rfl rfl

theorem clearLockoutAnswer_stands (r : Req) (u : State) : StoreStands u (clearLockoutAnswer r u).state := by
  unfold clearLockoutAnswer
  split
  · exact .refl u
  · split
    · exact .refl u
    · split
      · exact .refl u
      · exact u.unlock_stands _

/-- A counter replaced by one whose count is in its range leaves the counts in theirs (R163). -/
theorem State.setCounter_stands (s : State) (i : CounterNo) (c : Counter) (h : s.CountsInRange → c.count ≤ 65535) :
    StoreStands s (s.setCounter i c) := by
  refine ⟨rfl, rfl, fun hs n => ?_⟩
  change ((s.counters.set i c).get n).count ≤ 65535
  rw [PerCounter.get_set]
  split
  · exact h hs
  · exact hs n

theorem setCounterAnswer_stands (r : Req) (u : State) : StoreStands u (setCounterAnswer r u).state := by
  unfold setCounterAnswer
  split
  · exact .refl u
  · split
    · exact .refl u
    · exact u.setCounter_stands _ _ fun h => h _

theorem clearCounterAnswer_stands (r : Req) (u : State) : StoreStands u (clearCounterAnswer r u).state := by
  unfold clearCounterAnswer
  split
  · exact .refl u
  · split
    · exact .refl u
    · exact u.setCounter_stands _ _ fun _ => Nat.zero_le _

theorem diagSelectAnswer_stands (r : Req) (u : State) : StoreStands u (diagSelectAnswer r u).state := by
  unfold diagSelectAnswer
  split
  · exact .refl u
  · exact .of_eq rfl rfl rfl

theorem diagWriteAnswer_stands (r : Req) (u : State) : StoreStands u (diagWriteAnswer r u).state := by
  unfold diagWriteAnswer
  split
  · exact .refl u
  · split
    · exact .refl u
    · split
      · exact .refl u
      · exact .of_eq rfl rfl rfl

theorem readIncSnapAnswer_stands (r : Req) (u : State) : StoreStands u (readIncSnapAnswer r u).state := by
  unfold readIncSnapAnswer
  split
  · exact .refl u
  · split
    · exact .refl u
    · split
      · exact .refl u
      · split
        · exact .refl u
        · exact State.readWords_stands _ u

theorem markAnswer_storeKept (r : Req) (u : State) (hp : u.phase = .running) :
    StoreKept u (markAnswer r u).state := by
  unfold markAnswer
  split
  · exact .refl u
  · exact u.takeTrigger_storeKept _ _ hp

theorem freezeReleaseAnswer_storeKept (u : State) : StoreKept u (freezeReleaseAnswer u).state := by
  unfold freezeReleaseAnswer
  split
  · exact .refl u
  · exact u.leaveFreeze_storeKept

theorem readIncHeaderAnswer_storeKept (r : Req) (u : State) (hp : u.phase = .running) :
    StoreKept u (readIncHeaderAnswer r u).state := by
  unfold readIncHeaderAnswer
  split
  · exact .refl u
  · exact u.readHeader_storeKept _ _ hp

theorem restartAnswer_storeKept (u : State) (hp : u.phase = .running) : StoreKept u (restartAnswer u).state := by
  unfold restartAnswer
  split
  · exact u.warmRestart_storeKept _ hp
  · exact .refl u

/-! Every command -/

theorem storeKept_of_next {s x t : State} (h : (.next x : Result) = .next t) (hx : StoreKept s x) : StoreKept s t := by
  cases h
  exact hx

/-- Every command keeps the counts in their range and the recorder's copies agreeing. -/
theorem exec_storeKept {c : Instr} {s t : State} (h : exec c s = .next t) : StoreKept s t := by
  cases c
  -- the requests
  case nop r => exact storeKept_of_next h (s.serve_stands_storeKept 1 r _ fun u => .refl u)
  case postDb r => exact storeKept_of_next h (s.serve_stands_storeKept 16 r _ fun u => u.post_stands r _)
  case postAvail r => exact storeKept_of_next h (s.serve_stands_storeKept 17 r _ fun u => u.post_stands r _)
  case postAchieved r => exact storeKept_of_next h (s.serve_stands_storeKept 18 r _ fun u => u.post_stands r _)
  case postGround r => exact storeKept_of_next h (s.serve_stands_storeKept 19 r _ fun u => u.post_stands r _)
  case postAuto r => exact storeKept_of_next h (s.serve_stands_storeKept 20 r _ fun u => u.post_stands r _)
  case postInd r => exact storeKept_of_next h (s.serve_stands_storeKept 21 r _ fun u => u.post_stands r _)
  case postPressure r => exact storeKept_of_next h (s.serve_stands_storeKept 22 r _ fun u => u.post_stands r _)
  case penaltySet r => exact storeKept_of_next h (s.serve_stands_storeKept 32 r _ fun u => u.penaltyAdd_stands r.link)
  case penaltyClear r =>
    exact storeKept_of_next h (s.serve_stands_storeKept 33 r _ fun u => u.penaltyRemove_stands r.link)
  case penaltyReset r =>
    exact storeKept_of_next h
      (s.serve_stands_storeKept 34 r _ fun u => atStandstill_stands u _ u.penaltyEmpty_stands)
  case emerSet r => exact storeKept_of_next h (s.serve_stands_storeKept 35 r _ fun u => u.emergencyAdd_stands r.link)
  case emerClear r =>
    exact storeKept_of_next h
      (s.serve_stands_storeKept 36 r _ fun u => atStandstill_stands u _ (u.emergencyRemove_stands r.link))
  case modeReq r => exact storeKept_of_next h (s.serve_stands_storeKept 37 r _ (modeAnswer_stands r))
  case writeRes r => exact storeKept_of_next h (s.serve_stands_storeKept 48 r _ (writeResAnswer_stands r))
  case readRes r => exact storeKept_of_next h (s.serve_stands_storeKept 49 r _ (readResAnswer_stands r))
  case readAlloc r => exact storeKept_of_next h (s.serve_stands_storeKept 50 r _ (readAllocAnswer_stands r))
  case readStatus r => exact storeKept_of_next h (s.serve_stands_storeKept 51 r _ (readStatusAnswer_stands r))
  case readAxle r => exact storeKept_of_next h (s.serve_stands_storeKept 52 r _ (readAxleAnswer_stands r))
  case readParam r => exact storeKept_of_next h (s.serve_stands_storeKept 53 r _ (readParamAnswer_stands r))
  case writeParam r => exact storeKept_of_next h (s.serve_stands_storeKept 64 r _ (writeParamAnswer_stands r))
  case setMask r => exact storeKept_of_next h (s.serve_stands_storeKept 65 r _ (setMaskAnswer_stands r))
  case clearExc r => exact storeKept_of_next h (s.serve_stands_storeKept 66 r _ (clearExcAnswer_stands r))
  case setTriggers r =>
    exact storeKept_of_next h (s.serve_storeKept 67 r _ fun u _ => .of_fields rfl rfl rfl rfl rfl rfl rfl)
  case mark r => exact storeKept_of_next h (s.serve_storeKept 68 r _ (markAnswer_storeKept r))
  case freezeRelease r =>
    exact storeKept_of_next h (s.serve_storeKept 69 r _ fun u _ => freezeReleaseAnswer_storeKept u)
  case clearLockout r => exact storeKept_of_next h (s.serve_stands_storeKept 70 r _ (clearLockoutAnswer_stands r))
  case readIncStatus r => exact storeKept_of_next h (s.serve_storeKept 80 r _ fun u hp => u.armUnread_storeKept hp)
  case readIncHeader r => exact storeKept_of_next h (s.serve_storeKept 81 r _ (readIncHeaderAnswer_storeKept r))
  case readIncSnap r => exact storeKept_of_next h (s.serve_stands_storeKept 82 r _ (readIncSnapAnswer_stands r))
  case setCounter r => exact storeKept_of_next h (s.serve_stands_storeKept 96 r _ (setCounterAnswer_stands r))
  case clearCounter r => exact storeKept_of_next h (s.serve_stands_storeKept 97 r _ (clearCounterAnswer_stands r))
  case readCounter r => exact storeKept_of_next h (s.serve_stands_storeKept 98 r _ (readCounterAnswer_stands r))
  case diagSelect r => exact storeKept_of_next h (s.serve_stands_storeKept 112 r _ (diagSelectAnswer_stands r))
  case diagRead r => exact storeKept_of_next h (s.serve_stands_storeKept 113 r _ fun u => .refl u)
  case diagWrite r => exact storeKept_of_next h (s.serve_stands_storeKept 114 r _ (diagWriteAnswer_stands r))
  case restart r => exact storeKept_of_next h (s.serve_storeKept 128 r _ restartAnswer_storeKept)
  case unknownRequestKind kind r =>
    change execUnknownRequestKind kind r s = _ at h
    unfold execUnknownRequestKind at h
    split at h
    · cases h
    · exact storeKept_of_next h (s.serve_stands_storeKept kind r _ fun u => .refl u)
  -- the links and the timers
  case frameCheckFailure l =>
    exact storeKept_of_next h (s.ifInService_storeKept _ fun _ => (s.frameFailure_stands l).kept)
  case transferAbort l =>
    refine storeKept_of_next h (StoreStands.kept ?_)
    split <;> exact .of_eq rfl rfl rfl
  case transferStart l =>
    refine storeKept_of_next h (StoreStands.kept ?_)
    unfold State.transferStart
    dsimp only
    split <;> exact .of_eq rfl rfl rfl
  case linkTimeoutExpiry l => exact storeKept_of_next h (s.expire_storeKept _ _ fun u => u.linkDown_stands l 1)
  case freshExpiry i => exact storeKept_of_next h (s.expire_storeKept _ _ fun u => u.freshExpiry_stands i)
  case holdExpiry i => exact storeKept_of_next h (s.expire_storeKept _ _ fun u => u.holdExpiry_stands i)
  case goodHoldExpiry i => exact storeKept_of_next h (s.expire_storeKept _ _ fun u => u.goodHoldExpiry_stands i)
  case blendPeriodExpiry => exact storeKept_of_next h (s.expire_storeKept _ _ fun u => u.compute_stands)
  case shortfallTimerExpiry => exact storeKept_of_next h (s.expire_storeKept _ _ fun u => u.shortfallExpiry_stands)
  case airDeviationTimerExpiry t =>
    exact storeKept_of_next h (s.expire_storeKept _ _ fun u => u.deviationExpiry_stands t)
  case tachQualification k high =>
    exact storeKept_of_next h (s.ifInService_storeKept _ fun _ => (s.tachSample_stands k high).kept)
  case tachSample k high =>
    exact storeKept_of_next h (s.ifInService_storeKept _ fun _ => (s.tachSample_stands k high).kept)
  case windowExpiry k => exact storeKept_of_next h (s.expire_storeKept _ _ fun u => u.windowExpiry_stands k)
  case zeroTimerExpiry k => exact storeKept_of_next h (s.expire_storeKept _ _ fun u => u.zeroExpiry_stands k)
  case openTachTimerExpiry k => exact storeKept_of_next h (s.expire_storeKept _ _ fun u => u.openTachExpiry_stands k)
  case standstillTimerExpiry => exact storeKept_of_next h (s.expire_storeKept _ _ fun u => u.stillExpiry_stands)
  case dumpTimerExpiry t => exact storeKept_of_next h (s.expire_storeKept _ _ fun u => u.dumpExpiry_stands t)
  case sampleTimerExpiry =>
    change execSampleTimerExpiry s = _ at h
    unfold execSampleTimerExpiry at h
    split at h
    · rename_i hs
      rw [Bool.and_eq_true] at hs
      split at h
      · cases h
      · exact storeKept_of_next h (s.sampleExpiry_storeKept (of_decide_eq_true hs.1))
    · exact storeKept_of_next h (.refl s)
  case incidentTrigger c d =>
    exact storeKept_of_next h (s.ifInService_storeKept _ (s.triggerArrives_storeKept c d))
  -- the resets and the supplies
  case porstNAssert => exact storeKept_of_next h s.porstAssert_storeKept
  case powerOn => exact storeKept_of_next h s.powerOn_storeKept
  case powerOnScanComplete w => exact storeKept_of_next h (s.scanComplete_storeKept w)
  case wrstNAssert => exact storeKept_of_next h s.wrstAssert_storeKept
  case warmRestartComplete => exact storeKept_of_next h s.restartComplete_storeKept
  case powerLoss => exact storeKept_of_next h s.powerLoss_storeKept
  case retentionSupplyLoss => exact storeKept_of_next h s.retentionLoss_stands.kept

/-! Record Memory -/

theorem diagWriteAnswer_wf (r : Req) (u : State) (h : u.mem.wf) : (diagWriteAnswer r u).state.mem.wf := by
  unfold diagWriteAnswer
  split
  · exact h
  · split
    · exact h
    · split
      · exact h
      · exact u.mem.write_wf _ _ h

theorem State.retain_wf (s : State) (h : s.mem.wf) : s.retain.mem.wf := by
  unfold State.retain
  split
  · exact h
  · exact s.mem.lose_wf

/-- What keeps Record Memory canonical in a request's own rule keeps it in the whole service. -/
theorem State.serve_wf (s : State) (kind : Byte) (r : Req) (body : State → Answer)
    (h : ∀ u : State, u.mem.wf → (body u).state.mem.wf) (hs : s.mem.wf) : (s.serve kind r body).mem.wf := by
  have conclude : ∀ x : Answer, (x.conclude kind r).mem = x.state.mem := fun x => by
    unfold Answer.conclude State.respond
    split
    · split <;> rfl
    · rfl
  have arrive : (s.arrive r.link).mem = s.mem := congrArg Guarded.mem (s.arrive_guarded r.link)
  unfold State.serve
  split
  · split
    · exact hs
    · rw [conclude, State.take]
      split
      · exact arrive ▸ hs
      · split
        · exact arrive ▸ hs
        · exact h _ (arrive ▸ hs)
  · exact hs

/-- Every command keeps Record Memory canonical: DIAG_WRITE and the losses of the supplies by their own rules, every
other command as one that changes no word but to a codeword (R152, R162). -/
theorem exec_mem_wf {c : Instr} {s t : State} (h : exec c s = .next t) (hs : s.mem.wf) : t.mem.wf := by
  by_cases hc : mayChange s c .memory
  · rcases hc with ⟨⟨r, rfl⟩, _⟩ | rfl | ⟨rfl, _⟩
    · cases h
      exact s.serve_wf 114 r _ (diagWriteAnswer_wf r) hs
    · cases h
      unfold State.retentionLoss
      split
      · exact State.retain_wf _ hs
      all_goals exact hs
    · cases h
      exact State.retain_wf _ hs
  · exact (exec_kept h hc hs).1

theorem exec_keeps_storeSound {c : Instr} {s t : State} (h : exec c s = .next t) (hs : StoreSound s) : StoreSound t :=
  ⟨exec_mem_wf h hs.mem, (exec_storeKept h).counts hs.counts, (exec_storeKept h).recorder hs.recorder⟩

theorem StoreSound.of_stands {s t : State} (hs : StoreSound s) (h : StoreStands s t) (hm : t.mem = s.mem) :
    StoreSound t :=
  ⟨hm ▸ hs.mem, h.counts hs.counts, h.kept.recorder hs.recorder⟩

/-- An empty queue keeps the store sound: a trigger on its way arrives as its command does, or a µs passes (logs 2 and
4). -/
theorem State.idle_storeSound (s : State) (hs : StoreSound s) : StoreSound s.idle := by
  have tick : StoreSound s.tick := by
    unfold State.tick
    split <;> exact hs.of_stands (.of_eq rfl rfl rfl) rfl
  unfold State.idle
  split
  · rename_i x _ _
    split
    · rename_i hp
      have arrives : exec (.incidentTrigger x.cause x.detail) s = .next (s.triggerArrives x.cause x.detail) :=
        congrArg Host.Outcome.next (if_pos hp)
      exact exec_keeps_storeSound arrives hs
    · exact tick
  · exact tick

/-- Settles O57: every command, and the passing of time, keeps what is in store sound. -/
theorem stepKeepsStore : Obligations.StepKeepsStore := by
  intro s t hs h
  unfold step at h
  split at h
  · exact exec_keeps_storeSound h (hs.of_stands (.of_eq rfl rfl rfl) rfl)
  · cases h
    exact s.idle_storeSound hs

end Sys2Proof.Machine
end

section
/-! PROOFS. The response that a transfer shifts out, the recorder's plain requests, and the supplies with PORST_N
(O12, O54, O4). -/

namespace Sys2Proof.Machine

/-! Transfers (R145, R169, R173, R174) -/

theorem State.newIncident_iff (s : State) : s.newIncident = true ↔ ∃ i, (s.inc.slots.get i).state = .unread := by
  simp only [State.newIncident, List.any_eq_true, decide_eq_true_eq]
  exact ⟨fun ⟨i, _, h⟩ => ⟨i, h⟩, fun ⟨i, h⟩ => ⟨i, mem_allSlots i, h⟩⟩

theorem mem_allKinds (k : ExcKind) : k ∈ allKinds := by cases k <;> decide

theorem State.anyFlag_iff (s : State) : s.anyFlag = true ↔ ∃ k, (s.exc.get k).source.isSome = true := by
  simp only [State.anyFlag, excFlag, List.any_eq_true]
  exact ⟨fun ⟨k, _, h⟩ => ⟨k, h⟩, fun ⟨k, h⟩ => ⟨k, mem_allKinds k, h⟩⟩

/-- The weight of a bit of the summary byte (R174). -/
theorem weight_mul_bit (n : Nat) (b : Bool) : n * bit b = if b then n else 0 := by cases b <;> simp [bit]

theorem State.summary_eq (s : State) (l : LinkId) :
    s.summary l = modeCode s.demand.mode + 4 * linkStateCode (s.port l).state + (if s.newIncident then 16 else 0)
      + (if s.anyFlag then 32 else 0) + (if s.inc.freeze then 64 else 0)
      + (if s.demand.emergency.any then 128 else 0) := by
  simp only [State.summary, weight_mul_bit]
  rfl

/-- Settles O12: the start of a transfer, in and outside service. -/
theorem transferStartShiftsResponse : Obligations.TransferStartShiftsResponse := by
  refine ⟨fun l s hp => congrArg Host.Outcome.next ?_, fun l s hp => congrArg Host.Outcome.next ?_,
    State.newIncident_iff, State.anyFlag_iff⟩
  · have hs : s.inService = true := decide_eq_true hp
    simp only [State.transferStart, hs, if_true, State.responseFrame, State.summary_eq]
    rfl
  · have hs : s.inService = false := decide_eq_false hp
    simp only [State.transferStart, hs]
    rfl

/-! SET_TRIGGERS, FREEZE_RELEASE and READ_INC_STATUS (R131, R144, R146) -/

theorem State.leaveFreeze_frozen {u : State} (h : u.inc.freeze = true) :
    u.leaveFreeze = (u.setInc { u.inc with freeze := false }).setMem (u.mem.write (retentionAddr 2) (protect 0)) :=
  if_pos h

theorem State.leaveFreeze_not_frozen {u : State} (h : u.inc.freeze = false) : u.leaveFreeze = u :=
  if_neg (by simp [h])

/-- FREEZE is left only at standstill without emergency (R144). -/
theorem freezeReleaseAnswer_may {u : State} (h : u.speed.standstill = true ∧ u.demand.emergency.any = false) :
    freezeReleaseAnswer u = answerOk u.leaveFreeze (dataOf [bit u.leaveFreeze.inc.freeze]) :=
  if_neg (by simp [State.emergencyInForce, h])

theorem freezeReleaseAnswer_may_not {u : State}
    (h : ¬(u.speed.standstill = true ∧ u.demand.emergency.any = false)) :
    freezeReleaseAnswer u = refuse u .refusedState :=
  if_pos (by
    rw [not_and, Bool.not_eq_false] at h
    cases hs : u.speed.standstill
    · rfl
    · exact h hs)

/-- Settles O54: each of the three requests by its own rule. -/
theorem recorderRequests : Obligations.RecorderRequests := by
  refine fun r s u => ⟨fun h => ?_, fun h => ⟨fun hn => ?_, fun hm hf => ?_, fun hm hf => ?_⟩, fun h => ?_⟩
  · exact congrArg Host.Outcome.next (State.serve_ok h rfl rfl)
  · exact congrArg Host.Outcome.next (State.serve_refuse h (freezeReleaseAnswer_may_not hn))
  · refine congrArg Host.Outcome.next (State.serve_ok h ?_ rfl)
    rw [freezeReleaseAnswer_may hm, State.leaveFreeze_not_frozen hf, hf]
    rfl
  · refine congrArg Host.Outcome.next (State.serve_ok h ?_ rfl)
    rw [freezeReleaseAnswer_may hm, State.leaveFreeze_frozen hf]
    rfl
  · exact congrArg Host.Outcome.next (State.serve_ok h rfl rfl)

/-! The supplies and PORST_N (R141, R152, R153, R169, R185) -/

/-- A Link Interface whose transfer is broken off. -/
theorem LinkPort.cutOff_eq (x : LinkPort) :
    x.cutOff = { x with transfer := if x.transfer = .idle then .idle else .ignored, shiftOut := none } := by
  unfold LinkPort.cutOff
  cases x.transfer <;> rfl

theorem State.porstAssert_eq (s : State) :
    s.porstAssert = (((s.setBrkFault true).setDump ⟨false, false⟩).setLinks
      (.ofFn fun l => (s.links.get l).cutOff)).setPhase (if s.phase = .unpowered then .unpowered else .held) := by
  unfold State.porstAssert
  dsimp only
  split
  · rename_i hp
    rw [if_pos hp, ← hp]
    rfl
  all_goals
    rename_i hp
    rw [hp]
    rfl

/-- Contents that are lost have no right marker (R152). -/
theorem Memory.lose_marker (m : Memory) : markerIntact (m.lose.read (retentionAddr 0)) = false := by
  change markerIntact (unlistedWord (m.losses + 1) (retentionAddr 0)) = false
  unfold unlistedWord
  dsimp only
  split
  · decide
  · rename_i h
    exact Bool.eq_false_iff.mpr fun hm => h ⟨rfl, hm⟩

theorem State.retain_kept {s : State} (h : s.vbak = true) : s.retain = s := if_pos h

theorem State.retain_lost {s : State} (h : s.vbak = false) : s.retain = s.setMem s.mem.lose :=
  if_neg (by simp [h])

/-- What a retention leaves: Record Memory alone may change, and it stays or is lost with VBAK (R152). -/
theorem State.retain_cases (s : State) : s.retain = s.setMem s.retain.mem ∧
    (s.vbak = true → s.retain.mem = s.mem) ∧
    (s.vbak = false → s.retain.mem.wf ∧ markerIntact (s.retain.mem.read (retentionAddr 0)) = false) := by
  cases h : s.vbak
  · rw [State.retain_lost h]
    exact ⟨rfl, nofun, fun _ => ⟨s.mem.lose_wf, s.mem.lose_marker⟩⟩
  · rw [State.retain_kept h]
    exact ⟨rfl, fun _ => rfl, nofun⟩

/-- Settles O4: PORST_N, the loss of VDD, and the loss of VBAK without and with VDD. -/
theorem suppliesAndReset : Obligations.SuppliesAndReset := by
  intro s
  have cut : ∀ l, (PerLink.ofFn fun l => (s.links.get l).cutOff).get l = { s.port l with
      transfer := if (s.port l).transfer = .idle then .idle else .ignored, shiftOut := none } := fun l =>
    (PerLink.get_ofFn _ l).trans (LinkPort.cutOff_eq _)
  refine ⟨⟨s.porstAssert, rfl, ?_⟩, ⟨s.powerLoss, rfl, ?_⟩, fun hp => ⟨(s.setVbak false).retain, ?_, ?_⟩, fun hp => ?_⟩
  · rw [State.porstAssert_eq]
    exact ⟨rfl, rfl, rfl, cut, rfl, rfl⟩
  · obtain ⟨only, kept, lost⟩ := State.retain_cases
      ((s.endCapture.setLinks (.ofFn fun l => (s.links.get l).cutOff)).setPhase .unpowered)
    have hmem : s.powerLoss = ((s.endCapture.setLinks (.ofFn fun l => (s.links.get l).cutOff)).setPhase
      .unpowered).setMem s.powerLoss.mem := only
    refine ⟨?_, ?_, fun l => ?_, kept, lost, ?_⟩
    · rw [hmem]; rfl
    · rw [hmem]; rfl
    · rw [hmem]; exact cut l
    · rw [hmem]; rfl
  · change Host.Outcome.next s.retentionLoss = _
    unfold State.retentionLoss
    rw [hp]
  · obtain ⟨only, _, lost⟩ := State.retain_cases (s.setVbak false)
    exact ⟨only, lost rfl⟩
  · refine congrArg Host.Outcome.next ?_
    unfold State.retentionLoss
    cases h : s.phase
    · exact absurd h hp
    all_goals rfl

end Sys2Proof.Machine
end

section
/-! PROOFS. A sample expiry (O53): the snapshot and its words, the append to a capture in progress, and a pending
RESTART (R128 to R130, R133, R134, R139, R156). -/

namespace Sys2Proof.Machine

/-! The words of a snapshot (Table 7-2) -/

@[simp] theorem hi16_wordOf (h l : Nat) : hi16 (wordOf h l) = half h := BitVec.extractLsb'_append_eq_left

@[simp] theorem lo16_wordOf (h l : Nat) : lo16 (wordOf h l) = half l := BitVec.extractLsb'_append_eq_right

theorem axleByte_eq (c : Cls) (x : SlideState) : axleByte c x = 16 * clsCode c + slideStateCode x :=
  congrArg (· + slideStateCode x) (Nat.mul_comm _ _)

theorem linkStatesCode_eq (f : LinkId → LinkState) :
    linkStatesCode f = 16 * linkStateCode (f .p) + 4 * linkStateCode (f .a) + linkStateCode (f .m) := by
  simp only [linkStatesCode, Nat.mul_comm]

/-- The half that shows a speed in a snapshot (R129, log 33). -/
def Snapshot.speedShown (x : Snapshot) (k : Axle) : Half := half (speedHalf (x.speeds.get k))

theorem Snapshot.speedShown_of_le {x : Snapshot} {k : Axle} (h : x.speeds.get k ≤ 65535) :
    x.speedShown k = half (x.speeds.get k) := congrArg half (if_pos h)

/-! The picture that a snapshot takes (Table 7-1) -/

theorem PostedItem.snapPressure_value (x : PostedItem) :
    x.snapPressure.value = if x.cls = .fault ∨ x.cls = .absent then 0 else x.lastValue := by
  unfold PostedItem.snapPressure PostedItem.pressureValue
  cases x.cls <;> rfl

/-- The snapshot of a sample expiry shows the present figures (R128). -/
theorem State.snapshot_pictures (s : State) : Pictures s s.snapshot where
  general := ⟨rfl, rfl, fun l => PerLink.get_ofFn _ l⟩
  record := ⟨rfl, rfl, rfl, rfl⟩
  axles k := ⟨PerAxle.get_ofFn _ k, PerAxle.get_ofFn _ k, PerAxle.get_ofFn _ k, PerAxle.get_ofFn _ k⟩
  trucks y := by
    have achieved : s.snapshot.achieved.get y = (s.posted.ap.get y).snapPressure := PerTruck.get_ofFn _ y
    refine ⟨PerTruck.get_ofFn _ y, ?_, fun h => ?_, fun hf ha => ?_, PerTruck.get_ofFn _ y⟩
    · rw [achieved]
      rfl
    · rw [achieved, PostedItem.snapPressure_value, if_pos h]
    · rw [achieved, PostedItem.snapPressure_value, if_neg (not_or.mpr ⟨hf, ha⟩)]
      rfl
  sets := ⟨rfl, rfl, rfl, fun k => PerKind.get_ofFn _ k⟩

/-! The append (R139, R156) -/

theorem appendReads_eq (c : Capture) :
    appendReads c = slotAddr c.slot 5 :: if c.planned ≤ c.appended + 1 then [slotAddr c.slot 6] else [] := by
  unfold appendReads
  split <;> rfl

/-- The words of an append to a slot whose header is good, and its completion (R139). -/
def State.snapAppended (v : State) (c : Capture) (ws : List Checked) (x : Snapshot) : State :=
  ((v.storeWords (snapAddr c.slot ((hi16 (dataAt ws 0)).toNat + c.appended) 0) x.words).storeWord
    (slotAddr c.slot 5) (join16 (hi16 (dataAt ws 0)) (half (c.appended + 1)))).afterAppend c (dataAt ws 1)

section
variable {s v : State} {c : Capture} {ws : List Checked} (x : Snapshot)
  (hr : s.readWords (appendReads c) = (ws, v))
include hr

theorem State.append_bad_last (bad : anyBad ws = true) (last : c.planned ≤ c.appended + 1) :
    s.append c x = v.damageWith c.slot (ws.getD 1 ⟨.uncorrectable, 0⟩) := by
  simp only [State.append, hr, bad, last, if_true]

theorem State.append_bad_before (bad : anyBad ws = true) (before : ¬c.planned ≤ c.appended + 1) :
    s.append c x = v.damage c.slot := by
  simp only [State.append, hr, bad, before, if_true, if_false]

theorem State.append_good (good : anyBad ws = false) : s.append c x = v.snapAppended c ws x := by
  simp only [State.append, hr, good, Bool.false_eq_true, if_false]
  rfl

end

theorem State.afterAppend_inc (v : State) (c : Capture) (six : Word) :
    (v.afterAppend c six).inc = if c.planned ≤ c.appended + 1 then
        { v.inc with
          slots := v.inc.slots.set c.slot { v.inc.slots.get c.slot with state := .unread }
          capture := none }
      else { v.inc with capture := some { c with appended := c.appended + 1 } } := by
  unfold State.afterAppend
  split <;> rfl

theorem State.afterAppend_wf (v : State) (c : Capture) (six : Word) (h : v.mem.wf) :
    (v.afterAppend c six).mem.wf := by
  unfold State.afterAppend
  split
  · exact State.storeWord_wf _ _ _ h
  · exact h

theorem State.afterAppend_read (v : State) (c : Capture) (six : Word) (h : v.mem.wf) (a : Nat) :
    (v.afterAppend c six).mem.read a =
      if c.planned ≤ c.appended + 1 ∧ a = slotAddr c.slot 6 then protect (stateWord .unread (lo16 six))
      else v.mem.read a := by
  unfold State.afterAppend
  split
  · rename_i last
    exact (State.storeWord_read _ _ _ _ h).trans (by simp only [last, true_and])
  · rename_i before
    simp only [before, false_and, if_false, State.setInc_mem]

theorem State.snapAppended_only (v : State) (c : Capture) (ws : List Checked) (x : Snapshot) :
    RecorderOnly v (v.snapAppended c ws x) [] :=
  ((RecorderOnly.storeWords _ v _).trans (.storeWord _ _ _)).trans (State.afterAppend_only _ c _)

theorem State.snapAppended_inc (v : State) (c : Capture) (ws : List Checked) (x : Snapshot) :
    (v.snapAppended c ws x).inc = if c.planned ≤ c.appended + 1 then
        { v.inc with
          slots := v.inc.slots.set c.slot { v.inc.slots.get c.slot with state := .unread }
          capture := none }
      else { v.inc with capture := some { c with appended := c.appended + 1 } } := by
  rw [State.snapAppended, State.afterAppend_inc, State.storeWord_inc, State.storeWords_inc]

theorem State.snapAppended_wf (v : State) (c : Capture) (ws : List Checked) (x : Snapshot) (h : v.mem.wf) :
    (v.snapAppended c ws x).mem.wf :=
  State.afterAppend_wf _ c _ (State.storeWord_wf _ _ _ (State.storeWords_wf _ _ _ h))

/-- What an append leaves at every address (R139). -/
theorem State.snapAppended_read (v : State) (c : Capture) (ws : List Checked) (x : Snapshot) (h : v.mem.wf)
    (a : Nat) :
    (v.snapAppended c ws x).mem.read a =
      if c.planned ≤ c.appended + 1 ∧ a = slotAddr c.slot 6 then
        protect (stateWord .unread (lo16 (dataAt ws 1)))
      else if a = slotAddr c.slot 5 then
        protect (join16 (hi16 (dataAt ws 0)) (half (c.appended + 1)))
      else if snapAddr c.slot ((hi16 (dataAt ws 0)).toNat + c.appended) 0 ≤ a ∧
          a < snapAddr c.slot ((hi16 (dataAt ws 0)).toNat + c.appended) 0 + 16 then
        protect (x.words.getD (a - snapAddr c.slot ((hi16 (dataAt ws 0)).toNat + c.appended) 0) 0)
      else v.mem.read a := by
  have hv := State.storeWords_wf x.words v (snapAddr c.slot ((hi16 (dataAt ws 0)).toNat + c.appended) 0) h
  rw [State.snapAppended, State.afterAppend_read _ _ _ (State.storeWord_wf _ _ _ hv), State.storeWord_read _ _ _ _ hv,
    State.storeWords_getD _ _ _ _ h, Snapshot.words_length]

/-- What an append with a good header leaves (R139). -/
theorem State.snapAppended_words (v : State) (c : Capture) (ws : List Checked) (x : Snapshot) (h : v.mem.wf) :
    (∀ w < 16, (v.snapAppended c ws x).mem.read (snapAddr c.slot ((hi16 (dataAt ws 0)).toNat + c.appended) w) =
      protect (x.words.getD w 0)) ∧
    (v.snapAppended c ws x).mem.read (slotAddr c.slot 5) =
      protect (join16 (hi16 (dataAt ws 0)) (half (c.appended + 1))) ∧
    (c.planned ≤ c.appended + 1 → (v.snapAppended c ws x).mem.read (slotAddr c.slot 6) =
      protect (join16 2 (lo16 (dataAt ws 1)))) ∧
    ∀ a, a ≠ slotAddr c.slot 5 → (c.planned ≤ c.appended + 1 → a ≠ slotAddr c.slot 6) →
      (∀ w < 16, a ≠ snapAddr c.slot ((hi16 (dataAt ws 0)).toNat + c.appended) w) →
      (v.snapAppended c ws x).mem.read a = v.mem.read a := by
  refine ⟨fun w hw => ?_, ?_, fun last => ?_, fun a h5 h6 hs => ?_⟩ <;> rw [State.snapAppended_read v c ws x h]
  · simp only [slotAddr_eq, snapAddr_eq]
    rw [if_neg (by omega), if_neg (by omega), if_pos (by omega), Nat.add_sub_add_left, Nat.sub_zero]
  · rw [if_neg (by simp only [slotAddr_eq]; omega), if_pos rfl]
  · rw [if_pos ⟨last, rfl⟩]
    rfl
  · rw [if_neg (fun e => h6 e.1 e.2), if_neg h5, if_neg fun e => ?_]
    refine hs (a - snapAddr c.slot ((hi16 (dataAt ws 0)).toNat + c.appended) 0) (by omega) ?_
    simp only [snapAddr_eq] at e ⊢
    omega

/-- An append to the capture in progress is what R139 and R156 say. -/
theorem State.append_appended (s : State) {c : Capture} (x : Snapshot) (hc : s.inc.capture = some c) (h : s.mem.wf) :
    Appended s (s.append c x) x := by
  have hv := State.readWords_wf (appendReads c) s h
  rcases hr : s.readWords (appendReads c) with ⟨ws, v⟩
  rw [hr] at hv
  have hv : v.mem.wf := hv
  refine ⟨fun idle => absurd (hc.symm.trans idle) nofun, fun c' hc' => ?_, fun c' hc' => ?_⟩
  all_goals
    cases hc.symm.trans hc'
    dsimp only
    rw [← appendReads_eq, hr]
    dsimp only
  · intro bad
    refine ⟨fun last => ?_, fun before => ?_⟩
    · rw [State.append_bad_last x hr bad last]
      exact State.damageWith_damaged v c.slot _ hv
    · rw [State.append_bad_before x hr bad before]
      exact State.damage_damaged v c.slot hv
  · intro good
    rw [State.append_good x hr good]
    exact ⟨v.snapAppended_only c ws x, v.snapAppended_inc c ws x, v.snapAppended_words c ws x hv⟩

theorem State.appendIfCapturing_appended (s : State) (x : Snapshot) (h : s.mem.wf) :
    Appended s (s.appendIfCapturing x) x := by
  unfold State.appendIfCapturing
  split
  · exact s.append_appended x ‹_› h
  · rename_i idle
    exact ⟨fun _ => rfl, fun c hc => absurd (idle.symm.trans hc) nofun, fun c hc => absurd (idle.symm.trans hc) nofun⟩

/-- What an append leaves of the rest: Record Memory stays canonical, the parameters and a pending RESTART stand. -/
structure AppendFrame (s t : State) : Prop where
  wf : s.mem.wf → t.mem.wf
  params : t.params = s.params
  pending : t.inc.restartPending = s.inc.restartPending

theorem AppendFrame.trans {s t u : State} (h : AppendFrame s t) (g : AppendFrame t u) : AppendFrame s u :=
  ⟨g.wf ∘ h.wf, g.params.trans h.params, g.pending.trans h.pending⟩

theorem State.readWords_appendFrame (s : State) (as : List Nat) : AppendFrame s (s.readWords as).2 := by
  obtain ⟨m, k, h⟩ := s.readWords_frame as
  exact ⟨State.readWords_wf as s, by rw [h]; rfl, by rw [State.readWords_inc]⟩

theorem State.damageWith_appendFrame (s : State) (i : Slot) (six : Checked) : AppendFrame s (s.damageWith i six) :=
  ⟨State.storeWord_wf _ _ _, rfl, rfl⟩

theorem State.snapAppended_appendFrame (v : State) (c : Capture) (ws : List Checked) (x : Snapshot) :
    AppendFrame v (v.snapAppended c ws x) := by
  refine ⟨v.snapAppended_wf c ws x, (v.snapAppended_only c ws x).params, ?_⟩
  rw [State.snapAppended_inc]
  split <;> rfl

theorem State.append_appendFrame (s : State) (c : Capture) (x : Snapshot) : AppendFrame s (s.append c x) := by
  have read := s.readWords_appendFrame (appendReads c)
  rcases hr : s.readWords (appendReads c) with ⟨ws, v⟩
  rw [hr] at read
  cases bad : anyBad ws with
  | false => exact State.append_good x hr bad ▸ read.trans (v.snapAppended_appendFrame c ws x)
  | true =>
    by_cases last : c.planned ≤ c.appended + 1
    · exact State.append_bad_last x hr bad last ▸ read.trans (v.damageWith_appendFrame c.slot _)
    · exact State.append_bad_before x hr bad last ▸
        read.trans ((v.readWords_appendFrame [slotAddr c.slot 6]).trans (State.damageWith_appendFrame _ c.slot _))

theorem State.appendIfCapturing_appendFrame (s : State) (x : Snapshot) : AppendFrame s (s.appendIfCapturing x) := by
  unfold State.appendIfCapturing
  split
  · exact s.append_appendFrame _ x
  · exact ⟨id, rfl, rfl⟩

/-! The expiry (R128) -/

/-- The sample timer restarted and the snapshot pushed (R128 steps 1 and 2). -/
def State.sampled (s : State) : State := s.setInc { s.inc with
  sample := some ⟨s.now, s.params.samplePeriod⟩
  ring := (s.inc.ring ++ [s.snapshot]).drop ((s.inc.ring ++ [s.snapshot]).length - 64) }

theorem State.sampleExpiry_eq (s : State) :
    s.sampleExpiry = (s.sampled.appendIfCapturing s.snapshot).takePendingRestart := by
  rw [State.sampled, List.length_append, List.length_singleton]
  rfl

theorem State.takePendingRestart_none {s : State} (h : s.inc.restartPending = none) : s.takePendingRestart = s := by
  simp only [State.takePendingRestart, h]

theorem State.takePendingRestart_some {s : State} {d : Byte} (h : s.inc.restartPending = some d) :
    s.takePendingRestart = (s.takeTrigger .restart d).2.setInc
      { (s.takeTrigger .restart d).2.inc with restartPending := none } := by
  simp only [State.takePendingRestart, h]

theorem exec_sampleTimerExpiry_due {s : State} (hp : s.phase = .running) (due : s.runOver s.inc.sample) :
    exec .sampleTimerExpiry s =
      if s.appendImpossible then .fault .noSuchRecordWord else .next s.sampleExpiry := by
  have hd : s.due .sampleTimerExpiry = true := (s.passed_eq_runOver s.inc.sample).trans due
  exact if_pos (Bool.and_eq_true _ _ ▸ ⟨decide_eq_true hp, hd⟩)

theorem exec_sampleTimerExpiry_not_due {s : State} (due : ¬s.runOver s.inc.sample) :
    exec .sampleTimerExpiry s = .next s := by
  have hd : s.due .sampleTimerExpiry = false := (s.passed_eq_runOver s.inc.sample).trans (Bool.not_eq_true _ ▸ due)
  exact if_neg (by simp [hd])

/-- Settles O53: the addresses, the words of a snapshot, and a sample expiry that is due, impossible or not due. -/
theorem sampleExpiry : Obligations.SampleExpiry := by
  refine ⟨fun i n w => ⟨slotAddr_eq i w, snapAddr_eq i n w, retentionAddr_eq w⟩,
    fun x => ⟨x.speedShown, fun k => Snapshot.speedShown_of_le, ?_⟩, fun s hp =>
      ⟨exec_sampleTimerExpiry_not_due, fun due impossible => ?_, fun due possible h hpre => ?_⟩⟩
  · simp only [Snapshot.words, axleByte_eq, linkStatesCode_eq, List.map_cons, List.map_nil, List.flatten_cons,
      List.flatten_nil, hi16_wordOf, lo16_wordOf]
    rfl
  · exact (exec_sampleTimerExpiry_due hp due).trans (if_pos impossible)
  · have frame := s.sampled.appendIfCapturing_appendFrame s.snapshot
    have wf := frame.wf h
    refine ⟨s.snapshot, s.sampled, s.sampled.appendIfCapturing s.snapshot, s.sampleExpiry,
      (exec_sampleTimerExpiry_due hp due).trans (if_neg (ne_true_of_eq_false possible)), ?_, s.snapshot_pictures, rfl,
      s.sampled.appendIfCapturing_appended s.snapshot h, fun none => ?_, fun d some => ?_⟩
    all_goals
      rw [State.sampleExpiry_eq]
    · cases pending : s.inc.restartPending with
      | none => exact (State.takePendingRestart_none (frame.pending.trans pending)).symm ▸ wf
      | some d =>
        rw [State.takePendingRestart_some (frame.pending.trans pending)]
        exact (State.takeTrigger_taken _ .restart d wf (frame.params.symm ▸ hpre)).2
    · exact State.takePendingRestart_none (frame.pending.trans none)
    · exact ⟨_, _, _, _, (State.takeTrigger_taken _ .restart d wf (frame.params.symm ▸ hpre)).1,
        State.takePendingRestart_some (frame.pending.trans some)⟩

end Sys2Proof.Machine
end

section
/-! PROOFS. READ_INC_HEADER and READ_INC_SNAP (O55; R147, R148, R155, R156). -/

namespace Sys2Proof.Machine

/-! Answers and slot numbers -/

/-- A request answered by its own rule, which leaves the links. -/
theorem State.serve_reply {s u t : State} {kind : Byte} {r : Req} {body : State → Answer} {st : Status} {w : Words}
    (h : s.Takes kind r u) (hb : body u = ⟨t, some (st, w)⟩) (hp : t.links = u.links) :
    s.serve kind r body = t.answered kind r st w := by
  rw [State.serve_takes _ _ _ _ _ h, hb]
  refine Answer.conclude_some _ _ _ _ _ ?_
  obtain ⟨_, _, rfl, _⟩ := h
  simpa [State.port, hp] using State.arrive_up s r.link

theorem slotOf_of_lt {n : Nat} (h : 7 < n) : slotOf n = none := by
  obtain ⟨m, rfl⟩ := Nat.exists_eq_add_of_le' (Nat.succ_le_of_lt h)
  rfl

/-! The words that a header read answers with (R147) -/

theorem dataAt_eq_getD (cs : List Checked) (n : Nat) : dataAt cs n = (cs.map Checked.data).getD n 0 :=
  (List.getD_map cs ⟨.uncorrectable, 0⟩ Checked.data).symm

/-- Seven words that agree with those read but for the state in word 6 are shown as R147 says. -/
theorem headerData_shown {ws : List Word} {cs : List Checked} {state : Half}
    (front : ∀ n < 6, ws.getD n 0 = dataAt cs n) (six : hi16 (ws.getD 6 0) = state)
    (marks : lo16 (ws.getD 6 0) = lo16 (dataAt cs 6)) : HeaderShown (headerData ws) cs state := by
  have w0 := front 0 (by decide)
  have w1 := front 1 (by decide)
  have w2 := front 2 (by decide)
  have w3 := front 3 (by decide)
  have w4 := front 4 (by decide)
  have w5 := front 5 (by decide)
  refine ⟨⟨six, ?_, ?_, ?_, ?_⟩, ⟨?_, ?_, ?_, ?_, ?_, ?_⟩, fun fits => ?_, marks⟩
  · exact congrArg hi16 w0
  · exact congrArg lo16 w0
  · exact congrArg hi16 w1
  · exact congrArg lo16 w1
  · exact congrArg hi16 w2
  · exact congrArg lo16 w2
  · exact congrArg hi16 w3
  · exact congrArg lo16 w3
  · exact congrArg hi16 w4
  · exact congrArg lo16 w4
  · change countsWord (hi16 (ws.getD 5 0)).toNat (lo16 (ws.getD 5 0)).toNat = _
    rw [w5]
    exact if_pos fits

theorem headerData_shown_read (cs : List Checked) :
    HeaderShown (headerData (cs.map Checked.data)) cs (hi16 (dataAt cs 6)) :=
  headerData_shown (fun n _ => (dataAt_eq_getD cs n).symm) (by rw [dataAt_eq_getD]) (by rw [dataAt_eq_getD])

@[simp] theorem hi16_stateWord (x : SlotState) (marks : Half) : hi16 (stateWord x marks) = half (slotStateCode x) :=
  BitVec.extractLsb'_append_eq_left

@[simp] theorem lo16_stateWord (x : SlotState) (marks : Half) : lo16 (stateWord x marks) = marks :=
  BitVec.extractLsb'_append_eq_right

/-- The answer to an acknowledging read shows the slot READ. -/
theorem headerData_shown_acknowledged {cs : List Checked} (h : cs.length = 7) :
    HeaderShown (headerData ((cs.map Checked.data).set 6 (stateWord .read (lo16 (dataAt cs 6))))) cs 3 := by
  have six : ((cs.map Checked.data).set 6 (stateWord .read (lo16 (dataAt cs 6)))).getD 6 0 =
      stateWord .read (lo16 (dataAt cs 6)) := by
    simp [List.getD_eq_getElem?_getD, h]
  refine headerData_shown (fun n hn => ?_) ?_ ?_
  · rw [List.getD_eq_getElem?_getD, List.getElem?_set_ne (by omega), dataAt_eq_getD, List.getD_eq_getElem?_getD]
  · rw [six, hi16_stateWord]
    rfl
  · rw [six, lo16_stateWord]

/-! The cases of a header read (R147, R156) -/

theorem State.headerBad_iff (s : State) (i : Slot) (cs : List Checked) :
    s.headerBad i cs = true ↔ anyBad cs = true ∨ (hi16 (dataAt cs 6)).toNat ≠ slotStateCode (s.slotState i) ∨
      dataAt cs 0 ≠ s.slotSeq i := by
  simp only [State.headerBad, Bool.or_eq_true, decide_eq_true_eq, or_assoc]

theorem State.mayAcknowledge_iff (s : State) (l : LinkId) (i : Slot) :
    s.mayAcknowledge l i = true ↔ l = .m ∧ s.inc.armed.get i = true ∧ s.slotState i = .unread ∧
      (s.inc.freeze = false ∨ s.params.ackInFreeze = 1) := by
  simp only [State.mayAcknowledge, Bool.and_eq_true, Bool.or_eq_true, Bool.not_eq_true', decide_eq_true_eq, and_assoc]

section
variable {s v : State} {i : Slot} {cs : List Checked} (l : LinkId) (hr : s.readWords (headerAddrs i) = (cs, v))
include hr

theorem State.readHeader_bad (bad : s.headerBad i cs = true) :
    s.readHeader l i =
      (⟨true, headerData (cs.map Checked.data)⟩, v.damageWith i (cs.getD 6 ⟨.uncorrectable, 0⟩)) := by
  simp only [State.readHeader, hr, bad, if_true]

theorem State.readHeader_free (good : ¬s.headerBad i cs = true) (free : s.slotState i = .free) :
    s.readHeader l i = (⟨false, { w1 := hi16 (dataAt cs 6) }⟩, v) := by
  simp only [State.readHeader, hr, good, free, if_true, if_false, Bool.false_eq_true]

theorem State.readHeader_plain (good : ¬s.headerBad i cs = true) (taken : s.slotState i ≠ .free)
    (plain : ¬s.mayAcknowledge l i = true) :
    s.readHeader l i = (⟨false, headerData (cs.map Checked.data)⟩, v) := by
  simp only [State.readHeader, hr, good, taken, plain, if_false, Bool.false_eq_true]

theorem State.readHeader_acknowledged (good : ¬s.headerBad i cs = true) (taken : s.slotState i ≠ .free)
    (acks : s.mayAcknowledge l i = true) :
    s.readHeader l i =
      (⟨false, headerData ((cs.map Checked.data).set 6 (stateWord .read (lo16 (dataAt cs 6))))⟩,
        v.acknowledge i (lo16 (dataAt cs 6))) := by
  simp only [State.readHeader, hr, good, taken, acks, if_true, if_false, Bool.false_eq_true]

end

theorem State.acknowledge_only (s : State) (i : Slot) (marks : Half) : RecorderOnly s (s.acknowledge i marks) [] := rfl

theorem State.acknowledge_inc (s : State) (i : Slot) (marks : Half) :
    (s.acknowledge i marks).inc = { s.inc with
      slots := s.inc.slots.set i { s.inc.slots.get i with state := .read }
      armed := s.inc.armed.set i false } := rfl

theorem State.acknowledge_read (s : State) (i : Slot) (marks : Half) (h : s.mem.wf) (a : Nat) :
    (s.acknowledge i marks).mem.read a = if a = slotAddr i 6 then protect (stateWord .read marks) else s.mem.read a :=
  s.storeWord_read (slotAddr i 6) a _ h

/-! Requests -/

theorem readIncHeaderAnswer_slot {r : Req} {u t : State} {i : Slot} {x : HeaderRead} (hi : r.selector.toNat = slotNo i)
    (hx : u.readHeader r.link i = (x, t)) :
    readIncHeaderAnswer r u = ⟨t, some (if x.damaged then .damagedData else .ok, x.data)⟩ := by
  simp only [readIncHeaderAnswer, selectorNo, hi, slotOf_slotNo, hx, readAnswer]

/-- The words of a part stand one after another from word 6 × part (R148). -/
theorem partWords_eq {part : Nat} (h : part ≤ 2) :
    partWords part = (List.range (if part = 2 then 4 else 6)).map (6 * part + ·) := by
  interval_cases part <;> rfl

theorem half_toNat (w : Half) : half w.toNat = w := by simp [half]

/-- READ_INC_SNAP with its checks passed (R148, R155). -/
theorem State.readSnap_eq (s : State) (i : Slot) (n : Half) {part : Half} (h : part.toNat ≤ 2) :
    s.readSnap i n.toNat part.toNat =
      let read := s.readWords
        ((List.range (if part = 2 then 4 else 6)).map fun j => snapAddr i n.toNat (6 * part.toNat + j))
      (⟨anyBad read.1, wordsOf (n :: (read.1.map fun c => [hi16 c.data, lo16 c.data]).flatten)⟩, read.2) := by
  have two : part = 2 ↔ part.toNat = 2 := BitVec.toNat_eq
  simp only [State.readSnap, partWords_eq h, two, List.map_map, List.flatMap_def, half_toNat]
  rfl

section
variable {r : Req} {u : State} {i : Slot} (hi : r.selector.toNat = slotNo i) (part : r.words.w2.toNat ≤ 2)
include hi part

theorem readIncSnapAnswer_free (free : u.slotState i = .free) : readIncSnapAnswer r u = refuse u .refusedState := by
  simp only [readIncSnapAnswer, selectorNo, hi, slotOf_slotNo, param2, if_neg (Nat.not_lt.mpr part), if_pos free]

theorem readIncSnapAnswer_beyond (taken : u.slotState i ≠ .free) (beyond : u.snapLimit i ≤ r.words.w1.toNat) :
    readIncSnapAnswer r u = refuse u .refusedRange := by
  simp only [readIncSnapAnswer, selectorNo, hi, slotOf_slotNo, param2, param1, if_neg (Nat.not_lt.mpr part),
    if_neg taken, beyond, if_true]

theorem readIncSnapAnswer_read (taken : u.slotState i ≠ .free) (within : r.words.w1.toNat < u.snapLimit i) :
    readIncSnapAnswer r u = readAnswer (u.readSnap i r.words.w1.toNat r.words.w2.toNat) := by
  simp only [readIncSnapAnswer, selectorNo, hi, slotOf_slotNo, param2, param1, if_neg (Nat.not_lt.mpr part),
    if_neg taken, Nat.not_le.mpr within, if_false]

end

theorem readIncSnapAnswer_range {r : Req} (u : State) (h : 7 < r.selector.toNat ∨ 2 < r.words.w2.toNat) :
    readIncSnapAnswer r u = refuse u .refusedRange := by
  unfold readIncSnapAnswer
  split
  · rfl
  · rename_i i hi
    refine if_pos (h.resolve_left fun beyond => ?_)
    exact absurd ((slotOf_of_lt beyond).symm.trans hi) nofun

/-- READ_INC_HEADER of a slot, by what its read finds (R147, R156). -/
theorem readIncHeader_slot {r : Req} {s u v : State} {i : Slot} {cs : List Checked} (h : s.Takes 81 r u)
    (hi : r.selector.toNat = slotNo i) (hw : u.mem.wf) (hr : u.readWords (headerAddrs i) = (cs, v)) :
    (u.headerBad i cs = true → ∃ t w, exec (.readIncHeader r) s = .next (t.answered 81 r .damagedData w) ∧
      SlotDamaged v t i (cs.getD 6 ⟨.uncorrectable, 0⟩) ∧ HeaderShown w cs (hi16 (dataAt cs 6))) ∧
    (¬u.headerBad i cs = true → u.slotState i = .free →
      exec (.readIncHeader r) s = .next (v.answered 81 r .ok {})) ∧
    (¬u.headerBad i cs = true → u.slotState i ≠ .free → ¬u.mayAcknowledge r.link i = true → ∃ w,
      exec (.readIncHeader r) s = .next (v.answered 81 r .ok w) ∧
      HeaderShown w cs (half (slotStateCode (u.slotState i)))) ∧
    (¬u.headerBad i cs = true → u.mayAcknowledge r.link i = true → ∃ t w,
      exec (.readIncHeader r) s = .next (t.answered 81 r .ok w) ∧
      HeaderShown w cs 3 ∧ RecorderOnly v t [] ∧
      t.inc = { v.inc with
        slots := v.inc.slots.set i { v.inc.slots.get i with state := .read }
        armed := v.inc.armed.set i false } ∧
      ∀ a, t.mem.read a =
        if a = slotAddr i 6 then protect (join16 3 (lo16 (dataAt cs 6))) else v.mem.read a) := by
  have hv := State.readWords_wf (headerAddrs i) u hw
  have links := u.readWords_links (headerAddrs i)
  have length := State.readWords_length (headerAddrs i) u
  rw [hr] at hv links length
  have state : ¬u.headerBad i cs = true → hi16 (dataAt cs 6) = half (slotStateCode (u.slotState i)) := by
    intro good
    rw [State.headerBad_iff, not_or, not_or] at good
    obtain ⟨_, same, _⟩ := good
    rw [← Classical.not_not.mp same, half_toNat]
  refine ⟨fun bad => ?_, fun good free => ?_, fun good taken plain => ?_, fun good acks => ?_⟩
  · refine ⟨_, _, congrArg Host.Outcome.next (State.serve_reply h
      (readIncHeaderAnswer_slot hi (State.readHeader_bad r.link hr bad)) links), ?_, headerData_shown_read cs⟩
    exact State.damageWith_damaged v i _ hv
  · refine (congrArg Host.Outcome.next (State.serve_reply h
      (readIncHeaderAnswer_slot hi (State.readHeader_free r.link hr good free)) links)).trans ?_
    rw [state good, free]
    rfl
  · refine ⟨_, congrArg Host.Outcome.next (State.serve_reply h
      (readIncHeaderAnswer_slot hi (State.readHeader_plain r.link hr good taken plain)) links), ?_⟩
    exact state good ▸ headerData_shown_read cs
  · have unread : u.slotState i = .unread := ((State.mayAcknowledge_iff _ _ _).mp acks).2.2.1
    have taken : u.slotState i ≠ .free := unread ▸ nofun
    exact ⟨_, _, congrArg Host.Outcome.next (State.serve_reply h
      (readIncHeaderAnswer_slot hi (State.readHeader_acknowledged r.link hr good taken acks)) links),
      headerData_shown_acknowledged length, v.acknowledge_only i _, v.acknowledge_inc i _, v.acknowledge_read i _ hv⟩

/-- Settles O55: a header read by what it finds, and a snapshot read by its checks. -/
theorem incidentReads : Obligations.IncidentReads := by
  refine fun r s u => ⟨fun h => ⟨fun beyond => ?_, fun i hi hw => ?_⟩, fun h => ⟨fun beyond => ?_, fun i hi part => ?_⟩⟩
  · refine congrArg Host.Outcome.next (State.serve_refuse h ?_)
    simp only [readIncHeaderAnswer, selectorNo, slotOf_of_lt beyond]
  · rcases hr : u.readWords ((List.range 7).map (slotAddr i)) with ⟨cs, v⟩
    have cases := readIncHeader_slot h hi hw hr
    rw [State.headerBad_iff, State.mayAcknowledge_iff] at cases
    exact cases
  · exact congrArg Host.Outcome.next (State.serve_refuse h (readIncSnapAnswer_range u beyond))
  · have read := u.readSnap_eq i r.words.w1 part
    have links := u.readWords_links ((List.range (if r.words.w2 = 2 then 4 else 6)).map fun j =>
      snapAddr i r.words.w1.toNat (6 * r.words.w2.toNat + j))
    dsimp only at read ⊢
    generalize u.readWords ((List.range (if r.words.w2 = 2 then 4 else 6)).map fun j =>
      snapAddr i r.words.w1.toNat (6 * r.words.w2.toNat + j)) = x at read links ⊢
    obtain ⟨cs, v⟩ := x
    refine ⟨fun free => ?_, fun taken beyond => ?_, fun taken within => ?_⟩
    · exact congrArg Host.Outcome.next (State.serve_refuse h (readIncSnapAnswer_free hi part free))
    · exact congrArg Host.Outcome.next (State.serve_refuse h (readIncSnapAnswer_beyond hi part taken beyond))
    · refine congrArg Host.Outcome.next (State.serve_reply h ?_ links)
      rw [readIncSnapAnswer_read hi part taken within, read]
      rfl

end Sys2Proof.Machine
end
